-- ==== Sys2Proof/Word.lean ====
section
/-! DEFINITION. The word types: a byte, the only access width (R9, R51), and a 16-bit address (R9). -/

namespace Sys2Proof

/-- 8 bits: registers A, X, Y, SP, P and one cell of the bus (R9). -/
abbrev Byte := BitVec 8

/-- 16 bits: PC and every bus address (R9). -/
abbrev Word := BitVec 16

end Sys2Proof
end

