-- ==== Sys2Proof/Config.lean ====
section
/-! DEFINITION. What a platform or an instance of the core fixes: the parameters the spec leaves
open (R10), the bus mounts (R60), and the free values, which are constants without a body. -/

namespace Sys2Proof

/-- What `Interrupt(NMI)` does while a request is Pending (R278, NMI_RERAISE). -/
inductive NmiReraise
  | keep
  | overwrite
  deriving DecidableEq, Repr

/-- How `NmiCheck()` decides on a Pending latch: the normative formula of R281, or the
abstraction of R284, sound under both readings of conflict C1. -/
inductive NmiLatency
  | formula
  | firstOrSecondCheck
  deriving DecidableEq, Repr

/-- The parameters of R10, held in State so that every claim ranges over all their values
(log 9). MAGIC is `Config.magic`. -/
structure Params where
  /-- RESET_FLAGS: the byte Reset() loads into P. -/
  resetFlags : Byte
  /-- BASE_CYCLES: the entries that replace the default table of R92 (log 10). -/
  cycleOverrides : List (Byte × Nat)
  /-- CYC_WIDTH: `none` is the default, an unbounded natural number (log 11). -/
  cycWidth : Option Nat
  /-- NMI_DUMMY_ADDR: `none` is the default, the current PC. -/
  nmiDummyAddr : Option Word
  /-- NMI_SERVICE_CYCLES. -/
  nmiServiceCycles : Nat
  /-- NMI_RERAISE. -/
  nmiReraise : NmiReraise
  /-- RESET_CLEARS_LATCH. -/
  resetClearsLatch : Bool
  /-- STACK_BASE: the high byte of every stack address. -/
  stackBase : Byte
  /-- ADMIT_UNNAMED_UNDOC. -/
  admitUnnamedUndoc : Bool
  /-- The reading of the NMI latency (R281 or R284; log 18). -/
  nmiLatency : NmiLatency
  deriving DecidableEq, Repr

/-- The defaults of R10's table. -/
def Params.default : Params where
  resetFlags := 0x24
  cycleOverrides := []
  cycWidth := none
  nmiDummyAddr := none
  nmiServiceCycles := 7
  nmiReraise := .keep
  resetClearsLatch := false
  stackBase := 0x01
  admitUnnamedUndoc := false
  nmiLatency := .formula

/-- A device behind a mount. `ram mask` is plain RAM whose device-local address is masked
("2KB RAM visible across 8KB via &0x07FF", R52); `external` is any other device, whose
answers the spec leaves to the environment (R52, U17; log 3). -/
inductive Device
  | ram (mask : Word)
  | external
  deriving DecidableEq, Repr

/-- `Mount{from, to, device}` of R60(a), both ends included. -/
structure Mount where
  first : Word
  last : Word
  device : Device
  deriving DecidableEq, Repr

/-- A byte an external device returns where no scripted turn supplies one: free, drawn afresh
at each read (U17; log 17). -/
opaque Config.deviceByte : Nat → Word → Byte

/-- MAGIC, the constant of XAA and ATX: a free byte drawn afresh at each use (R255, R256; log 16). -/
opaque Config.magic : Nat → Byte

/-- A choice of R284 that no script supplies: true defers the service (log 18). -/
opaque Config.nmiDefers : Nat → Bool

end Sys2Proof
end

