-- ==== Sys2Proof/Syntax.lean ====
section
/-! DEFINITION. The instruction set as syntax: one constructor per row of opcode_table.json (R83,
R84), with the row's operand bytes (R81), and the operand forms of R101 and R103. -/

namespace Sys2Proof

/-- The memory addressing modes of R103 with their operand bytes; Immediate, the eleventh, is
`Operand.immediate`. -/
inductive AddrMode
  | zp (zp : Byte)
  | zpx (zp : Byte)
  | zpy (zp : Byte)
  | abs (addr : Word)
  | abx (base : Word)
  | aby (base : Word)
  | ind (ptr : Word)
  | izx (zp : Byte)
  | izy (zp : Byte)
  | rel (off : Byte)
  deriving DecidableEq, Repr

/-- The operand kinds of R101. -/
inductive Operand
  | implied
  | accumulator
  | immediate (imm : Byte)
  | addressed (m : AddrMode)
  deriving DecidableEq, Repr

/-- The mnemonics of the opcode table (R85). -/
inductive Mnemonic
  | brk | ora | kil | slo | nop | asl | php | aac
  | bpl | clc | jsr | and | rla | bit | rol | plp
  | bmi | sec | rti | eor | sre | lsr | pha | asr
  | jmp | bvc | cli | rts | adc | rra | ror | pla
  | arr | bvs | sei | sta | sax | sty | stx | dey
  | txa | xaa | bcc | axa | tya | txs | xas | sya
  | sxa | ldy | lda | ldx | lax | tay | tax | atx
  | bcs | clv | tsx | lar | cpy | cmp | dcp | dec
  | iny | dex | axs | bne | cld | cpx | sbc | isb
  | inc | inx | beq | sed
  deriving DecidableEq, Repr

/-- The opcode table as syntax (R84): the rows with operand bytes in byte order, then the one-byte
rows in byte order. Where a mnemonic has several bytes of one format, the byte stands in the
constructor's name. -/
inductive Instr
  /-- 01 `ORA (zp,X)` -/ | oraIzx (zp : Byte)
  /-- 03 `SLO (zp,X)` -/ | sloIzx (zp : Byte)
  /-- 04 `NOP zp` -/ | nopZp04 (zp : Byte)
  /-- 05 `ORA zp` -/ | oraZp (zp : Byte)
  /-- 06 `ASL zp` -/ | aslZp (zp : Byte)
  /-- 07 `SLO zp` -/ | sloZp (zp : Byte)
  /-- 09 `ORA #imm` -/ | oraImm (imm : Byte)
  /-- 0B `AAC #imm` -/ | aacImm0B (imm : Byte)
  /-- 0C `NOP addr` -/ | nopAbs (addr : Word)
  /-- 0D `ORA addr` -/ | oraAbs (addr : Word)
  /-- 0E `ASL addr` -/ | aslAbs (addr : Word)
  /-- 0F `SLO addr` -/ | sloAbs (addr : Word)
  /-- 10 `BPL off` -/ | bpl (off : Byte)
  /-- 11 `ORA (zp),Y` -/ | oraIzy (zp : Byte)
  /-- 13 `SLO (zp),Y` -/ | sloIzy (zp : Byte)
  /-- 14 `NOP zp,X` -/ | nopZpx14 (zp : Byte)
  /-- 15 `ORA zp,X` -/ | oraZpx (zp : Byte)
  /-- 16 `ASL zp,X` -/ | aslZpx (zp : Byte)
  /-- 17 `SLO zp,X` -/ | sloZpx (zp : Byte)
  /-- 19 `ORA base,Y` -/ | oraAby (base : Word)
  /-- 1B `SLO base,Y` -/ | sloAby (base : Word)
  /-- 1C `NOP base,X` -/ | nopAbx1C (base : Word)
  /-- 1D `ORA base,X` -/ | oraAbx (base : Word)
  /-- 1E `ASL base,X` -/ | aslAbx (base : Word)
  /-- 1F `SLO base,X` -/ | sloAbx (base : Word)
  /-- 20 `JSR addr` -/ | jsr (addr : Word)
  /-- 21 `AND (zp,X)` -/ | andIzx (zp : Byte)
  /-- 23 `RLA (zp,X)` -/ | rlaIzx (zp : Byte)
  /-- 24 `BIT zp` -/ | bitZp (zp : Byte)
  /-- 25 `AND zp` -/ | andZp (zp : Byte)
  /-- 26 `ROL zp` -/ | rolZp (zp : Byte)
  /-- 27 `RLA zp` -/ | rlaZp (zp : Byte)
  /-- 29 `AND #imm` -/ | andImm (imm : Byte)
  /-- 2B `AAC #imm` -/ | aacImm2B (imm : Byte)
  /-- 2C `BIT addr` -/ | bitAbs (addr : Word)
  /-- 2D `AND addr` -/ | andAbs (addr : Word)
  /-- 2E `ROL addr` -/ | rolAbs (addr : Word)
  /-- 2F `RLA addr` -/ | rlaAbs (addr : Word)
  /-- 30 `BMI off` -/ | bmi (off : Byte)
  /-- 31 `AND (zp),Y` -/ | andIzy (zp : Byte)
  /-- 33 `RLA (zp),Y` -/ | rlaIzy (zp : Byte)
  /-- 34 `NOP zp,X` -/ | nopZpx34 (zp : Byte)
  /-- 35 `AND zp,X` -/ | andZpx (zp : Byte)
  /-- 36 `ROL zp,X` -/ | rolZpx (zp : Byte)
  /-- 37 `RLA zp,X` -/ | rlaZpx (zp : Byte)
  /-- 39 `AND base,Y` -/ | andAby (base : Word)
  /-- 3B `RLA base,Y` -/ | rlaAby (base : Word)
  /-- 3C `NOP base,X` -/ | nopAbx3C (base : Word)
  /-- 3D `AND base,X` -/ | andAbx (base : Word)
  /-- 3E `ROL base,X` -/ | rolAbx (base : Word)
  /-- 3F `RLA base,X` -/ | rlaAbx (base : Word)
  /-- 41 `EOR (zp,X)` -/ | eorIzx (zp : Byte)
  /-- 43 `SRE (zp,X)` -/ | sreIzx (zp : Byte)
  /-- 44 `NOP zp` -/ | nopZp44 (zp : Byte)
  /-- 45 `EOR zp` -/ | eorZp (zp : Byte)
  /-- 46 `LSR zp` -/ | lsrZp (zp : Byte)
  /-- 47 `SRE zp` -/ | sreZp (zp : Byte)
  /-- 49 `EOR #imm` -/ | eorImm (imm : Byte)
  /-- 4B `ASR #imm` -/ | asr (imm : Byte)
  /-- 4C `JMP addr` -/ | jmpAbs (addr : Word)
  /-- 4D `EOR addr` -/ | eorAbs (addr : Word)
  /-- 4E `LSR addr` -/ | lsrAbs (addr : Word)
  /-- 4F `SRE addr` -/ | sreAbs (addr : Word)
  /-- 50 `BVC off` -/ | bvc (off : Byte)
  /-- 51 `EOR (zp),Y` -/ | eorIzy (zp : Byte)
  /-- 53 `SRE (zp),Y` -/ | sreIzy (zp : Byte)
  /-- 54 `NOP zp,X` -/ | nopZpx54 (zp : Byte)
  /-- 55 `EOR zp,X` -/ | eorZpx (zp : Byte)
  /-- 56 `LSR zp,X` -/ | lsrZpx (zp : Byte)
  /-- 57 `SRE zp,X` -/ | sreZpx (zp : Byte)
  /-- 59 `EOR base,Y` -/ | eorAby (base : Word)
  /-- 5B `SRE base,Y` -/ | sreAby (base : Word)
  /-- 5C `NOP base,X` -/ | nopAbx5C (base : Word)
  /-- 5D `EOR base,X` -/ | eorAbx (base : Word)
  /-- 5E `LSR base,X` -/ | lsrAbx (base : Word)
  /-- 5F `SRE base,X` -/ | sreAbx (base : Word)
  /-- 61 `ADC (zp,X)` -/ | adcIzx (zp : Byte)
  /-- 63 `RRA (zp,X)` -/ | rraIzx (zp : Byte)
  /-- 64 `NOP zp` -/ | nopZp64 (zp : Byte)
  /-- 65 `ADC zp` -/ | adcZp (zp : Byte)
  /-- 66 `ROR zp` -/ | rorZp (zp : Byte)
  /-- 67 `RRA zp` -/ | rraZp (zp : Byte)
  /-- 69 `ADC #imm` -/ | adcImm (imm : Byte)
  /-- 6B `ARR #imm` -/ | arr (imm : Byte)
  /-- 6C `JMP (ptr)` -/ | jmpInd (ptr : Word)
  /-- 6D `ADC addr` -/ | adcAbs (addr : Word)
  /-- 6E `ROR addr` -/ | rorAbs (addr : Word)
  /-- 6F `RRA addr` -/ | rraAbs (addr : Word)
  /-- 70 `BVS off` -/ | bvs (off : Byte)
  /-- 71 `ADC (zp),Y` -/ | adcIzy (zp : Byte)
  /-- 73 `RRA (zp),Y` -/ | rraIzy (zp : Byte)
  /-- 74 `NOP zp,X` -/ | nopZpx74 (zp : Byte)
  /-- 75 `ADC zp,X` -/ | adcZpx (zp : Byte)
  /-- 76 `ROR zp,X` -/ | rorZpx (zp : Byte)
  /-- 77 `RRA zp,X` -/ | rraZpx (zp : Byte)
  /-- 79 `ADC base,Y` -/ | adcAby (base : Word)
  /-- 7B `RRA base,Y` -/ | rraAby (base : Word)
  /-- 7C `NOP base,X` -/ | nopAbx7C (base : Word)
  /-- 7D `ADC base,X` -/ | adcAbx (base : Word)
  /-- 7E `ROR base,X` -/ | rorAbx (base : Word)
  /-- 7F `RRA base,X` -/ | rraAbx (base : Word)
  /-- 80 `NOP #imm` -/ | nopImm80 (imm : Byte)
  /-- 81 `STA (zp,X)` -/ | staIzx (zp : Byte)
  /-- 82 `NOP #imm` -/ | nopImm82 (imm : Byte)
  /-- 83 `SAX (zp,X)` -/ | saxIzx (zp : Byte)
  /-- 84 `STY zp` -/ | styZp (zp : Byte)
  /-- 85 `STA zp` -/ | staZp (zp : Byte)
  /-- 86 `STX zp` -/ | stxZp (zp : Byte)
  /-- 87 `SAX zp` -/ | saxZp (zp : Byte)
  /-- 89 `NOP #imm` -/ | nopImm89 (imm : Byte)
  /-- 8B `XAA #imm` -/ | xaa (imm : Byte)
  /-- 8C `STY addr` -/ | styAbs (addr : Word)
  /-- 8D `STA addr` -/ | staAbs (addr : Word)
  /-- 8E `STX addr` -/ | stxAbs (addr : Word)
  /-- 8F `SAX addr` -/ | saxAbs (addr : Word)
  /-- 90 `BCC off` -/ | bcc (off : Byte)
  /-- 91 `STA (zp),Y` -/ | staIzy (zp : Byte)
  /-- 93 `AXA (zp),Y` -/ | axaIzy (zp : Byte)
  /-- 94 `STY zp,X` -/ | styZpx (zp : Byte)
  /-- 95 `STA zp,X` -/ | staZpx (zp : Byte)
  /-- 96 `STX zp,Y` -/ | stxZpy (zp : Byte)
  /-- 97 `SAX zp,Y` -/ | saxZpy (zp : Byte)
  /-- 99 `STA base,Y` -/ | staAby (base : Word)
  /-- 9B `XAS base,Y` -/ | xas (base : Word)
  /-- 9C `SYA base,X` -/ | sya (base : Word)
  /-- 9D `STA base,X` -/ | staAbx (base : Word)
  /-- 9E `SXA base,Y` -/ | sxa (base : Word)
  /-- 9F `AXA base,Y` -/ | axaAby (base : Word)
  /-- A0 `LDY #imm` -/ | ldyImm (imm : Byte)
  /-- A1 `LDA (zp,X)` -/ | ldaIzx (zp : Byte)
  /-- A2 `LDX #imm` -/ | ldxImm (imm : Byte)
  /-- A3 `LAX (zp,X)` -/ | laxIzx (zp : Byte)
  /-- A4 `LDY zp` -/ | ldyZp (zp : Byte)
  /-- A5 `LDA zp` -/ | ldaZp (zp : Byte)
  /-- A6 `LDX zp` -/ | ldxZp (zp : Byte)
  /-- A7 `LAX zp` -/ | laxZp (zp : Byte)
  /-- A9 `LDA #imm` -/ | ldaImm (imm : Byte)
  /-- AB `ATX #imm` -/ | atx (imm : Byte)
  /-- AC `LDY addr` -/ | ldyAbs (addr : Word)
  /-- AD `LDA addr` -/ | ldaAbs (addr : Word)
  /-- AE `LDX addr` -/ | ldxAbs (addr : Word)
  /-- AF `LAX addr` -/ | laxAbs (addr : Word)
  /-- B0 `BCS off` -/ | bcs (off : Byte)
  /-- B1 `LDA (zp),Y` -/ | ldaIzy (zp : Byte)
  /-- B3 `LAX (zp),Y` -/ | laxIzy (zp : Byte)
  /-- B4 `LDY zp,X` -/ | ldyZpx (zp : Byte)
  /-- B5 `LDA zp,X` -/ | ldaZpx (zp : Byte)
  /-- B6 `LDX zp,Y` -/ | ldxZpy (zp : Byte)
  /-- B7 `LAX zp,Y` -/ | laxZpy (zp : Byte)
  /-- B9 `LDA base,Y` -/ | ldaAby (base : Word)
  /-- BB `LAR base,Y` -/ | lar (base : Word)
  /-- BC `LDY base,X` -/ | ldyAbx (base : Word)
  /-- BD `LDA base,X` -/ | ldaAbx (base : Word)
  /-- BE `LDX base,Y` -/ | ldxAby (base : Word)
  /-- BF `LAX base,Y` -/ | laxAby (base : Word)
  /-- C0 `CPY #imm` -/ | cpyImm (imm : Byte)
  /-- C1 `CMP (zp,X)` -/ | cmpIzx (zp : Byte)
  /-- C2 `NOP #imm` -/ | nopImmC2 (imm : Byte)
  /-- C3 `DCP (zp,X)` -/ | dcpIzx (zp : Byte)
  /-- C4 `CPY zp` -/ | cpyZp (zp : Byte)
  /-- C5 `CMP zp` -/ | cmpZp (zp : Byte)
  /-- C6 `DEC zp` -/ | decZp (zp : Byte)
  /-- C7 `DCP zp` -/ | dcpZp (zp : Byte)
  /-- C9 `CMP #imm` -/ | cmpImm (imm : Byte)
  /-- CB `AXS #imm` -/ | axs (imm : Byte)
  /-- CC `CPY addr` -/ | cpyAbs (addr : Word)
  /-- CD `CMP addr` -/ | cmpAbs (addr : Word)
  /-- CE `DEC addr` -/ | decAbs (addr : Word)
  /-- CF `DCP addr` -/ | dcpAbs (addr : Word)
  /-- D0 `BNE off` -/ | bne (off : Byte)
  /-- D1 `CMP (zp),Y` -/ | cmpIzy (zp : Byte)
  /-- D3 `DCP (zp),Y` -/ | dcpIzy (zp : Byte)
  /-- D4 `NOP zp,X` -/ | nopZpxD4 (zp : Byte)
  /-- D5 `CMP zp,X` -/ | cmpZpx (zp : Byte)
  /-- D6 `DEC zp,X` -/ | decZpx (zp : Byte)
  /-- D7 `DCP zp,X` -/ | dcpZpx (zp : Byte)
  /-- D9 `CMP base,Y` -/ | cmpAby (base : Word)
  /-- DB `DCP base,Y` -/ | dcpAby (base : Word)
  /-- DC `NOP base,X` -/ | nopAbxDC (base : Word)
  /-- DD `CMP base,X` -/ | cmpAbx (base : Word)
  /-- DE `DEC base,X` -/ | decAbx (base : Word)
  /-- DF `DCP base,X` -/ | dcpAbx (base : Word)
  /-- E0 `CPX #imm` -/ | cpxImm (imm : Byte)
  /-- E1 `SBC (zp,X)` -/ | sbcIzx (zp : Byte)
  /-- E2 `NOP #imm` -/ | nopImmE2 (imm : Byte)
  /-- E3 `ISB (zp,X)` -/ | isbIzx (zp : Byte)
  /-- E4 `CPX zp` -/ | cpxZp (zp : Byte)
  /-- E5 `SBC zp` -/ | sbcZp (zp : Byte)
  /-- E6 `INC zp` -/ | incZp (zp : Byte)
  /-- E7 `ISB zp` -/ | isbZp (zp : Byte)
  /-- E9 `SBC #imm` -/ | sbcImm (imm : Byte)
  /-- EB `SBC #imm` -/ | sbcImmEB (imm : Byte)
  /-- EC `CPX addr` -/ | cpxAbs (addr : Word)
  /-- ED `SBC addr` -/ | sbcAbs (addr : Word)
  /-- EE `INC addr` -/ | incAbs (addr : Word)
  /-- EF `ISB addr` -/ | isbAbs (addr : Word)
  /-- F0 `BEQ off` -/ | beq (off : Byte)
  /-- F1 `SBC (zp),Y` -/ | sbcIzy (zp : Byte)
  /-- F3 `ISB (zp),Y` -/ | isbIzy (zp : Byte)
  /-- F4 `NOP zp,X` -/ | nopZpxF4 (zp : Byte)
  /-- F5 `SBC zp,X` -/ | sbcZpx (zp : Byte)
  /-- F6 `INC zp,X` -/ | incZpx (zp : Byte)
  /-- F7 `ISB zp,X` -/ | isbZpx (zp : Byte)
  /-- F9 `SBC base,Y` -/ | sbcAby (base : Word)
  /-- FB `ISB base,Y` -/ | isbAby (base : Word)
  /-- FC `NOP base,X` -/ | nopAbxFC (base : Word)
  /-- FD `SBC base,X` -/ | sbcAbx (base : Word)
  /-- FE `INC base,X` -/ | incAbx (base : Word)
  /-- FF `ISB base,X` -/ | isbAbx (base : Word)
  /-- 00 `BRK` -/ | brk
  /-- 02 `KIL` -/ | kil02
  /-- 08 `PHP` -/ | php
  /-- 0A `ASL A` -/ | aslAcc
  /-- 12 `KIL` -/ | kil12
  /-- 18 `CLC` -/ | clc
  /-- 1A `NOP` -/ | nop1A
  /-- 22 `KIL` -/ | kil22
  /-- 28 `PLP` -/ | plp
  /-- 2A `ROL A` -/ | rolAcc
  /-- 32 `KIL` -/ | kil32
  /-- 38 `SEC` -/ | sec
  /-- 3A `NOP` -/ | nop3A
  /-- 40 `RTI` -/ | rti
  /-- 42 `KIL` -/ | kil42
  /-- 48 `PHA` -/ | pha
  /-- 4A `LSR A` -/ | lsrAcc
  /-- 52 `KIL` -/ | kil52
  /-- 58 `CLI` -/ | cli
  /-- 5A `NOP` -/ | nop5A
  /-- 60 `RTS` -/ | rts
  /-- 62 `KIL` -/ | kil62
  /-- 68 `PLA` -/ | pla
  /-- 6A `ROR A` -/ | rorAcc
  /-- 72 `KIL` -/ | kil72
  /-- 78 `SEI` -/ | sei
  /-- 7A `NOP` -/ | nop7A
  /-- 88 `DEY` -/ | dey
  /-- 8A `TXA` -/ | txa
  /-- 92 `KIL` -/ | kil92
  /-- 98 `TYA` -/ | tya
  /-- 9A `TXS` -/ | txs
  /-- A8 `TAY` -/ | tay
  /-- AA `TAX` -/ | tax
  /-- B2 `KIL` -/ | kilB2
  /-- B8 `CLV` -/ | clv
  /-- BA `TSX` -/ | tsx
  /-- C8 `INY` -/ | iny
  /-- CA `DEX` -/ | dex
  /-- D2 `KIL` -/ | kilD2
  /-- D8 `CLD` -/ | cld
  /-- DA `NOP` -/ | nopDA
  /-- E8 `INX` -/ | inx
  /-- EA `NOP` -/ | nopEA
  /-- F2 `KIL` -/ | kilF2
  /-- F8 `SED` -/ | sed
  /-- FA `NOP` -/ | nopFA
  deriving DecidableEq, Repr

end Sys2Proof
end

