-- ==== Sys2Proof/WellFormed.lean ====
section
/-! DEFINITION. Which terms are well formed: instructions (every one is, R83 and R86) and the
platform's mounts (R60). -/

namespace Sys2Proof

/-- Every instruction term is well formed: an operand is a whole byte or address, "no byte value is
illegal", and "every operand bit is significant" (R86), so there is nothing left to check. -/
def Instr.wellFormed (_i : Instr) : Bool := true

/-- A mount's range is not inverted (R60 a; log 21). -/
def Mount.wf (m : Mount) : Bool := decide (m.first ≤ m.last)

/-- Two mounts' ranges do not intersect (R60 a, d). -/
def Mount.disjointFrom (m m' : Mount) : Bool :=
  decide (m.last < m'.first) || decide (m'.last < m.first)

/-- The bus invariant "no two mounts' ranges overlap" (R60 a), and no range inverted. -/
def mountsWf : List Mount → Bool
  | [] => true
  | m :: ms => m.wf && ms.all (fun m' => m.disjointFrom m') && mountsWf ms

end Sys2Proof
end

