-- ==== Sys2Proof/Decode.lean ====
section
/-! DEFINITION. Decoding, total on any bytes (R80, R83), and the encoder, from the one opcode
matrix of R84; byte-order helpers. -/

namespace Sys2Proof

/-! ### Byte order (R11, R54) -/

/-- `hi:lo` (R11). -/
def wordOf (hi lo : Byte) : Word := hi ++ lo

/-- Bits 7 to 0 of an address. -/
def lowByte (w : Word) : Byte := w.extractLsb' 0 8

/-- Bits 15 to 8 of an address. -/
def highByte (w : Word) : Byte := w.extractLsb' 8 8

/-! ### The opcode matrix (R84), one function per row; `b1` and `b2` are the bytes after the opcode -/

/-- Row 0x of R84. -/
def row0 (column : Nat) (b1 b2 : Byte) : Instr :=
  match column with
  | 0x0 => .brk
  | 0x1 => .oraIzx b1
  | 0x2 => .kil02
  | 0x3 => .sloIzx b1
  | 0x4 => .nopZp04 b1
  | 0x5 => .oraZp b1
  | 0x6 => .aslZp b1
  | 0x7 => .sloZp b1
  | 0x8 => .php
  | 0x9 => .oraImm b1
  | 0xA => .aslAcc
  | 0xB => .aacImm0B b1
  | 0xC => .nopAbs (wordOf b2 b1)
  | 0xD => .oraAbs (wordOf b2 b1)
  | 0xE => .aslAbs (wordOf b2 b1)
  | _ => .sloAbs (wordOf b2 b1)

/-- Row 1x of R84. -/
def row1 (column : Nat) (b1 b2 : Byte) : Instr :=
  match column with
  | 0x0 => .bpl b1
  | 0x1 => .oraIzy b1
  | 0x2 => .kil12
  | 0x3 => .sloIzy b1
  | 0x4 => .nopZpx14 b1
  | 0x5 => .oraZpx b1
  | 0x6 => .aslZpx b1
  | 0x7 => .sloZpx b1
  | 0x8 => .clc
  | 0x9 => .oraAby (wordOf b2 b1)
  | 0xA => .nop1A
  | 0xB => .sloAby (wordOf b2 b1)
  | 0xC => .nopAbx1C (wordOf b2 b1)
  | 0xD => .oraAbx (wordOf b2 b1)
  | 0xE => .aslAbx (wordOf b2 b1)
  | _ => .sloAbx (wordOf b2 b1)

/-- Row 2x of R84. -/
def row2 (column : Nat) (b1 b2 : Byte) : Instr :=
  match column with
  | 0x0 => .jsr (wordOf b2 b1)
  | 0x1 => .andIzx b1
  | 0x2 => .kil22
  | 0x3 => .rlaIzx b1
  | 0x4 => .bitZp b1
  | 0x5 => .andZp b1
  | 0x6 => .rolZp b1
  | 0x7 => .rlaZp b1
  | 0x8 => .plp
  | 0x9 => .andImm b1
  | 0xA => .rolAcc
  | 0xB => .aacImm2B b1
  | 0xC => .bitAbs (wordOf b2 b1)
  | 0xD => .andAbs (wordOf b2 b1)
  | 0xE => .rolAbs (wordOf b2 b1)
  | _ => .rlaAbs (wordOf b2 b1)

/-- Row 3x of R84. -/
def row3 (column : Nat) (b1 b2 : Byte) : Instr :=
  match column with
  | 0x0 => .bmi b1
  | 0x1 => .andIzy b1
  | 0x2 => .kil32
  | 0x3 => .rlaIzy b1
  | 0x4 => .nopZpx34 b1
  | 0x5 => .andZpx b1
  | 0x6 => .rolZpx b1
  | 0x7 => .rlaZpx b1
  | 0x8 => .sec
  | 0x9 => .andAby (wordOf b2 b1)
  | 0xA => .nop3A
  | 0xB => .rlaAby (wordOf b2 b1)
  | 0xC => .nopAbx3C (wordOf b2 b1)
  | 0xD => .andAbx (wordOf b2 b1)
  | 0xE => .rolAbx (wordOf b2 b1)
  | _ => .rlaAbx (wordOf b2 b1)

/-- Row 4x of R84. -/
def row4 (column : Nat) (b1 b2 : Byte) : Instr :=
  match column with
  | 0x0 => .rti
  | 0x1 => .eorIzx b1
  | 0x2 => .kil42
  | 0x3 => .sreIzx b1
  | 0x4 => .nopZp44 b1
  | 0x5 => .eorZp b1
  | 0x6 => .lsrZp b1
  | 0x7 => .sreZp b1
  | 0x8 => .pha
  | 0x9 => .eorImm b1
  | 0xA => .lsrAcc
  | 0xB => .asr b1
  | 0xC => .jmpAbs (wordOf b2 b1)
  | 0xD => .eorAbs (wordOf b2 b1)
  | 0xE => .lsrAbs (wordOf b2 b1)
  | _ => .sreAbs (wordOf b2 b1)

/-- Row 5x of R84. -/
def row5 (column : Nat) (b1 b2 : Byte) : Instr :=
  match column with
  | 0x0 => .bvc b1
  | 0x1 => .eorIzy b1
  | 0x2 => .kil52
  | 0x3 => .sreIzy b1
  | 0x4 => .nopZpx54 b1
  | 0x5 => .eorZpx b1
  | 0x6 => .lsrZpx b1
  | 0x7 => .sreZpx b1
  | 0x8 => .cli
  | 0x9 => .eorAby (wordOf b2 b1)
  | 0xA => .nop5A
  | 0xB => .sreAby (wordOf b2 b1)
  | 0xC => .nopAbx5C (wordOf b2 b1)
  | 0xD => .eorAbx (wordOf b2 b1)
  | 0xE => .lsrAbx (wordOf b2 b1)
  | _ => .sreAbx (wordOf b2 b1)

/-- Row 6x of R84. -/
def row6 (column : Nat) (b1 b2 : Byte) : Instr :=
  match column with
  | 0x0 => .rts
  | 0x1 => .adcIzx b1
  | 0x2 => .kil62
  | 0x3 => .rraIzx b1
  | 0x4 => .nopZp64 b1
  | 0x5 => .adcZp b1
  | 0x6 => .rorZp b1
  | 0x7 => .rraZp b1
  | 0x8 => .pla
  | 0x9 => .adcImm b1
  | 0xA => .rorAcc
  | 0xB => .arr b1
  | 0xC => .jmpInd (wordOf b2 b1)
  | 0xD => .adcAbs (wordOf b2 b1)
  | 0xE => .rorAbs (wordOf b2 b1)
  | _ => .rraAbs (wordOf b2 b1)

/-- Row 7x of R84. -/
def row7 (column : Nat) (b1 b2 : Byte) : Instr :=
  match column with
  | 0x0 => .bvs b1
  | 0x1 => .adcIzy b1
  | 0x2 => .kil72
  | 0x3 => .rraIzy b1
  | 0x4 => .nopZpx74 b1
  | 0x5 => .adcZpx b1
  | 0x6 => .rorZpx b1
  | 0x7 => .rraZpx b1
  | 0x8 => .sei
  | 0x9 => .adcAby (wordOf b2 b1)
  | 0xA => .nop7A
  | 0xB => .rraAby (wordOf b2 b1)
  | 0xC => .nopAbx7C (wordOf b2 b1)
  | 0xD => .adcAbx (wordOf b2 b1)
  | 0xE => .rorAbx (wordOf b2 b1)
  | _ => .rraAbx (wordOf b2 b1)

/-- Row 8x of R84. -/
def row8 (column : Nat) (b1 b2 : Byte) : Instr :=
  match column with
  | 0x0 => .nopImm80 b1
  | 0x1 => .staIzx b1
  | 0x2 => .nopImm82 b1
  | 0x3 => .saxIzx b1
  | 0x4 => .styZp b1
  | 0x5 => .staZp b1
  | 0x6 => .stxZp b1
  | 0x7 => .saxZp b1
  | 0x8 => .dey
  | 0x9 => .nopImm89 b1
  | 0xA => .txa
  | 0xB => .xaa b1
  | 0xC => .styAbs (wordOf b2 b1)
  | 0xD => .staAbs (wordOf b2 b1)
  | 0xE => .stxAbs (wordOf b2 b1)
  | _ => .saxAbs (wordOf b2 b1)

/-- Row 9x of R84. -/
def row9 (column : Nat) (b1 b2 : Byte) : Instr :=
  match column with
  | 0x0 => .bcc b1
  | 0x1 => .staIzy b1
  | 0x2 => .kil92
  | 0x3 => .axaIzy b1
  | 0x4 => .styZpx b1
  | 0x5 => .staZpx b1
  | 0x6 => .stxZpy b1
  | 0x7 => .saxZpy b1
  | 0x8 => .tya
  | 0x9 => .staAby (wordOf b2 b1)
  | 0xA => .txs
  | 0xB => .xas (wordOf b2 b1)
  | 0xC => .sya (wordOf b2 b1)
  | 0xD => .staAbx (wordOf b2 b1)
  | 0xE => .sxa (wordOf b2 b1)
  | _ => .axaAby (wordOf b2 b1)

/-- Row Ax of R84. -/
def rowA (column : Nat) (b1 b2 : Byte) : Instr :=
  match column with
  | 0x0 => .ldyImm b1
  | 0x1 => .ldaIzx b1
  | 0x2 => .ldxImm b1
  | 0x3 => .laxIzx b1
  | 0x4 => .ldyZp b1
  | 0x5 => .ldaZp b1
  | 0x6 => .ldxZp b1
  | 0x7 => .laxZp b1
  | 0x8 => .tay
  | 0x9 => .ldaImm b1
  | 0xA => .tax
  | 0xB => .atx b1
  | 0xC => .ldyAbs (wordOf b2 b1)
  | 0xD => .ldaAbs (wordOf b2 b1)
  | 0xE => .ldxAbs (wordOf b2 b1)
  | _ => .laxAbs (wordOf b2 b1)

/-- Row Bx of R84. -/
def rowB (column : Nat) (b1 b2 : Byte) : Instr :=
  match column with
  | 0x0 => .bcs b1
  | 0x1 => .ldaIzy b1
  | 0x2 => .kilB2
  | 0x3 => .laxIzy b1
  | 0x4 => .ldyZpx b1
  | 0x5 => .ldaZpx b1
  | 0x6 => .ldxZpy b1
  | 0x7 => .laxZpy b1
  | 0x8 => .clv
  | 0x9 => .ldaAby (wordOf b2 b1)
  | 0xA => .tsx
  | 0xB => .lar (wordOf b2 b1)
  | 0xC => .ldyAbx (wordOf b2 b1)
  | 0xD => .ldaAbx (wordOf b2 b1)
  | 0xE => .ldxAby (wordOf b2 b1)
  | _ => .laxAby (wordOf b2 b1)

/-- Row Cx of R84. -/
def rowC (column : Nat) (b1 b2 : Byte) : Instr :=
  match column with
  | 0x0 => .cpyImm b1
  | 0x1 => .cmpIzx b1
  | 0x2 => .nopImmC2 b1
  | 0x3 => .dcpIzx b1
  | 0x4 => .cpyZp b1
  | 0x5 => .cmpZp b1
  | 0x6 => .decZp b1
  | 0x7 => .dcpZp b1
  | 0x8 => .iny
  | 0x9 => .cmpImm b1
  | 0xA => .dex
  | 0xB => .axs b1
  | 0xC => .cpyAbs (wordOf b2 b1)
  | 0xD => .cmpAbs (wordOf b2 b1)
  | 0xE => .decAbs (wordOf b2 b1)
  | _ => .dcpAbs (wordOf b2 b1)

/-- Row Dx of R84. -/
def rowD (column : Nat) (b1 b2 : Byte) : Instr :=
  match column with
  | 0x0 => .bne b1
  | 0x1 => .cmpIzy b1
  | 0x2 => .kilD2
  | 0x3 => .dcpIzy b1
  | 0x4 => .nopZpxD4 b1
  | 0x5 => .cmpZpx b1
  | 0x6 => .decZpx b1
  | 0x7 => .dcpZpx b1
  | 0x8 => .cld
  | 0x9 => .cmpAby (wordOf b2 b1)
  | 0xA => .nopDA
  | 0xB => .dcpAby (wordOf b2 b1)
  | 0xC => .nopAbxDC (wordOf b2 b1)
  | 0xD => .cmpAbx (wordOf b2 b1)
  | 0xE => .decAbx (wordOf b2 b1)
  | _ => .dcpAbx (wordOf b2 b1)

/-- Row Ex of R84. -/
def rowE (column : Nat) (b1 b2 : Byte) : Instr :=
  match column with
  | 0x0 => .cpxImm b1
  | 0x1 => .sbcIzx b1
  | 0x2 => .nopImmE2 b1
  | 0x3 => .isbIzx b1
  | 0x4 => .cpxZp b1
  | 0x5 => .sbcZp b1
  | 0x6 => .incZp b1
  | 0x7 => .isbZp b1
  | 0x8 => .inx
  | 0x9 => .sbcImm b1
  | 0xA => .nopEA
  | 0xB => .sbcImmEB b1
  | 0xC => .cpxAbs (wordOf b2 b1)
  | 0xD => .sbcAbs (wordOf b2 b1)
  | 0xE => .incAbs (wordOf b2 b1)
  | _ => .isbAbs (wordOf b2 b1)

/-- Row Fx of R84. -/
def rowF (column : Nat) (b1 b2 : Byte) : Instr :=
  match column with
  | 0x0 => .beq b1
  | 0x1 => .sbcIzy b1
  | 0x2 => .kilF2
  | 0x3 => .isbIzy b1
  | 0x4 => .nopZpxF4 b1
  | 0x5 => .sbcZpx b1
  | 0x6 => .incZpx b1
  | 0x7 => .isbZpx b1
  | 0x8 => .sed
  | 0x9 => .sbcAby (wordOf b2 b1)
  | 0xA => .nopFA
  | 0xB => .isbAby (wordOf b2 b1)
  | 0xC => .nopAbxFC (wordOf b2 b1)
  | 0xD => .sbcAbx (wordOf b2 b1)
  | 0xE => .incAbx (wordOf b2 b1)
  | _ => .isbAbx (wordOf b2 b1)

/-- The table entry of an opcode byte, with its operand bytes (R80, R83): total. -/
def instrOf (op b1 b2 : Byte) : Instr :=
  match op.toNat / 16 with
  | 0x0 => row0 (op.toNat % 16) b1 b2
  | 0x1 => row1 (op.toNat % 16) b1 b2
  | 0x2 => row2 (op.toNat % 16) b1 b2
  | 0x3 => row3 (op.toNat % 16) b1 b2
  | 0x4 => row4 (op.toNat % 16) b1 b2
  | 0x5 => row5 (op.toNat % 16) b1 b2
  | 0x6 => row6 (op.toNat % 16) b1 b2
  | 0x7 => row7 (op.toNat % 16) b1 b2
  | 0x8 => row8 (op.toNat % 16) b1 b2
  | 0x9 => row9 (op.toNat % 16) b1 b2
  | 0xA => rowA (op.toNat % 16) b1 b2
  | 0xB => rowB (op.toNat % 16) b1 b2
  | 0xC => rowC (op.toNat % 16) b1 b2
  | 0xD => rowD (op.toNat % 16) b1 b2
  | 0xE => rowE (op.toNat % 16) b1 b2
  | _ => rowF (op.toNat % 16) b1 b2

/-! ### The other direction -/

/-- The opcode byte of an instruction: its cell of R84. -/
def Instr.opcode : Instr → Byte
  | .brk => 0x00
  | .oraIzx _ => 0x01
  | .kil02 => 0x02
  | .sloIzx _ => 0x03
  | .nopZp04 _ => 0x04
  | .oraZp _ => 0x05
  | .aslZp _ => 0x06
  | .sloZp _ => 0x07
  | .php => 0x08
  | .oraImm _ => 0x09
  | .aslAcc => 0x0A
  | .aacImm0B _ => 0x0B
  | .nopAbs _ => 0x0C
  | .oraAbs _ => 0x0D
  | .aslAbs _ => 0x0E
  | .sloAbs _ => 0x0F
  | .bpl _ => 0x10
  | .oraIzy _ => 0x11
  | .kil12 => 0x12
  | .sloIzy _ => 0x13
  | .nopZpx14 _ => 0x14
  | .oraZpx _ => 0x15
  | .aslZpx _ => 0x16
  | .sloZpx _ => 0x17
  | .clc => 0x18
  | .oraAby _ => 0x19
  | .nop1A => 0x1A
  | .sloAby _ => 0x1B
  | .nopAbx1C _ => 0x1C
  | .oraAbx _ => 0x1D
  | .aslAbx _ => 0x1E
  | .sloAbx _ => 0x1F
  | .jsr _ => 0x20
  | .andIzx _ => 0x21
  | .kil22 => 0x22
  | .rlaIzx _ => 0x23
  | .bitZp _ => 0x24
  | .andZp _ => 0x25
  | .rolZp _ => 0x26
  | .rlaZp _ => 0x27
  | .plp => 0x28
  | .andImm _ => 0x29
  | .rolAcc => 0x2A
  | .aacImm2B _ => 0x2B
  | .bitAbs _ => 0x2C
  | .andAbs _ => 0x2D
  | .rolAbs _ => 0x2E
  | .rlaAbs _ => 0x2F
  | .bmi _ => 0x30
  | .andIzy _ => 0x31
  | .kil32 => 0x32
  | .rlaIzy _ => 0x33
  | .nopZpx34 _ => 0x34
  | .andZpx _ => 0x35
  | .rolZpx _ => 0x36
  | .rlaZpx _ => 0x37
  | .sec => 0x38
  | .andAby _ => 0x39
  | .nop3A => 0x3A
  | .rlaAby _ => 0x3B
  | .nopAbx3C _ => 0x3C
  | .andAbx _ => 0x3D
  | .rolAbx _ => 0x3E
  | .rlaAbx _ => 0x3F
  | .rti => 0x40
  | .eorIzx _ => 0x41
  | .kil42 => 0x42
  | .sreIzx _ => 0x43
  | .nopZp44 _ => 0x44
  | .eorZp _ => 0x45
  | .lsrZp _ => 0x46
  | .sreZp _ => 0x47
  | .pha => 0x48
  | .eorImm _ => 0x49
  | .lsrAcc => 0x4A
  | .asr _ => 0x4B
  | .jmpAbs _ => 0x4C
  | .eorAbs _ => 0x4D
  | .lsrAbs _ => 0x4E
  | .sreAbs _ => 0x4F
  | .bvc _ => 0x50
  | .eorIzy _ => 0x51
  | .kil52 => 0x52
  | .sreIzy _ => 0x53
  | .nopZpx54 _ => 0x54
  | .eorZpx _ => 0x55
  | .lsrZpx _ => 0x56
  | .sreZpx _ => 0x57
  | .cli => 0x58
  | .eorAby _ => 0x59
  | .nop5A => 0x5A
  | .sreAby _ => 0x5B
  | .nopAbx5C _ => 0x5C
  | .eorAbx _ => 0x5D
  | .lsrAbx _ => 0x5E
  | .sreAbx _ => 0x5F
  | .rts => 0x60
  | .adcIzx _ => 0x61
  | .kil62 => 0x62
  | .rraIzx _ => 0x63
  | .nopZp64 _ => 0x64
  | .adcZp _ => 0x65
  | .rorZp _ => 0x66
  | .rraZp _ => 0x67
  | .pla => 0x68
  | .adcImm _ => 0x69
  | .rorAcc => 0x6A
  | .arr _ => 0x6B
  | .jmpInd _ => 0x6C
  | .adcAbs _ => 0x6D
  | .rorAbs _ => 0x6E
  | .rraAbs _ => 0x6F
  | .bvs _ => 0x70
  | .adcIzy _ => 0x71
  | .kil72 => 0x72
  | .rraIzy _ => 0x73
  | .nopZpx74 _ => 0x74
  | .adcZpx _ => 0x75
  | .rorZpx _ => 0x76
  | .rraZpx _ => 0x77
  | .sei => 0x78
  | .adcAby _ => 0x79
  | .nop7A => 0x7A
  | .rraAby _ => 0x7B
  | .nopAbx7C _ => 0x7C
  | .adcAbx _ => 0x7D
  | .rorAbx _ => 0x7E
  | .rraAbx _ => 0x7F
  | .nopImm80 _ => 0x80
  | .staIzx _ => 0x81
  | .nopImm82 _ => 0x82
  | .saxIzx _ => 0x83
  | .styZp _ => 0x84
  | .staZp _ => 0x85
  | .stxZp _ => 0x86
  | .saxZp _ => 0x87
  | .dey => 0x88
  | .nopImm89 _ => 0x89
  | .txa => 0x8A
  | .xaa _ => 0x8B
  | .styAbs _ => 0x8C
  | .staAbs _ => 0x8D
  | .stxAbs _ => 0x8E
  | .saxAbs _ => 0x8F
  | .bcc _ => 0x90
  | .staIzy _ => 0x91
  | .kil92 => 0x92
  | .axaIzy _ => 0x93
  | .styZpx _ => 0x94
  | .staZpx _ => 0x95
  | .stxZpy _ => 0x96
  | .saxZpy _ => 0x97
  | .tya => 0x98
  | .staAby _ => 0x99
  | .txs => 0x9A
  | .xas _ => 0x9B
  | .sya _ => 0x9C
  | .staAbx _ => 0x9D
  | .sxa _ => 0x9E
  | .axaAby _ => 0x9F
  | .ldyImm _ => 0xA0
  | .ldaIzx _ => 0xA1
  | .ldxImm _ => 0xA2
  | .laxIzx _ => 0xA3
  | .ldyZp _ => 0xA4
  | .ldaZp _ => 0xA5
  | .ldxZp _ => 0xA6
  | .laxZp _ => 0xA7
  | .tay => 0xA8
  | .ldaImm _ => 0xA9
  | .tax => 0xAA
  | .atx _ => 0xAB
  | .ldyAbs _ => 0xAC
  | .ldaAbs _ => 0xAD
  | .ldxAbs _ => 0xAE
  | .laxAbs _ => 0xAF
  | .bcs _ => 0xB0
  | .ldaIzy _ => 0xB1
  | .kilB2 => 0xB2
  | .laxIzy _ => 0xB3
  | .ldyZpx _ => 0xB4
  | .ldaZpx _ => 0xB5
  | .ldxZpy _ => 0xB6
  | .laxZpy _ => 0xB7
  | .clv => 0xB8
  | .ldaAby _ => 0xB9
  | .tsx => 0xBA
  | .lar _ => 0xBB
  | .ldyAbx _ => 0xBC
  | .ldaAbx _ => 0xBD
  | .ldxAby _ => 0xBE
  | .laxAby _ => 0xBF
  | .cpyImm _ => 0xC0
  | .cmpIzx _ => 0xC1
  | .nopImmC2 _ => 0xC2
  | .dcpIzx _ => 0xC3
  | .cpyZp _ => 0xC4
  | .cmpZp _ => 0xC5
  | .decZp _ => 0xC6
  | .dcpZp _ => 0xC7
  | .iny => 0xC8
  | .cmpImm _ => 0xC9
  | .dex => 0xCA
  | .axs _ => 0xCB
  | .cpyAbs _ => 0xCC
  | .cmpAbs _ => 0xCD
  | .decAbs _ => 0xCE
  | .dcpAbs _ => 0xCF
  | .bne _ => 0xD0
  | .cmpIzy _ => 0xD1
  | .kilD2 => 0xD2
  | .dcpIzy _ => 0xD3
  | .nopZpxD4 _ => 0xD4
  | .cmpZpx _ => 0xD5
  | .decZpx _ => 0xD6
  | .dcpZpx _ => 0xD7
  | .cld => 0xD8
  | .cmpAby _ => 0xD9
  | .nopDA => 0xDA
  | .dcpAby _ => 0xDB
  | .nopAbxDC _ => 0xDC
  | .cmpAbx _ => 0xDD
  | .decAbx _ => 0xDE
  | .dcpAbx _ => 0xDF
  | .cpxImm _ => 0xE0
  | .sbcIzx _ => 0xE1
  | .nopImmE2 _ => 0xE2
  | .isbIzx _ => 0xE3
  | .cpxZp _ => 0xE4
  | .sbcZp _ => 0xE5
  | .incZp _ => 0xE6
  | .isbZp _ => 0xE7
  | .inx => 0xE8
  | .sbcImm _ => 0xE9
  | .nopEA => 0xEA
  | .sbcImmEB _ => 0xEB
  | .cpxAbs _ => 0xEC
  | .sbcAbs _ => 0xED
  | .incAbs _ => 0xEE
  | .isbAbs _ => 0xEF
  | .beq _ => 0xF0
  | .sbcIzy _ => 0xF1
  | .kilF2 => 0xF2
  | .isbIzy _ => 0xF3
  | .nopZpxF4 _ => 0xF4
  | .sbcZpx _ => 0xF5
  | .incZpx _ => 0xF6
  | .isbZpx _ => 0xF7
  | .sed => 0xF8
  | .sbcAby _ => 0xF9
  | .nopFA => 0xFA
  | .isbAby _ => 0xFB
  | .nopAbxFC _ => 0xFC
  | .sbcAbx _ => 0xFD
  | .incAbx _ => 0xFE
  | .isbAbx _ => 0xFF

/-- The operand kind and mode of an instruction (R81, R84, R101). -/
def Instr.operand : Instr → Operand
  | .brk => .implied
  | .oraIzx zp => .addressed (.izx zp)
  | .kil02 => .implied
  | .sloIzx zp => .addressed (.izx zp)
  | .nopZp04 zp => .addressed (.zp zp)
  | .oraZp zp => .addressed (.zp zp)
  | .aslZp zp => .addressed (.zp zp)
  | .sloZp zp => .addressed (.zp zp)
  | .php => .implied
  | .oraImm imm => .immediate imm
  | .aslAcc => .accumulator
  | .aacImm0B imm => .immediate imm
  | .nopAbs addr => .addressed (.abs addr)
  | .oraAbs addr => .addressed (.abs addr)
  | .aslAbs addr => .addressed (.abs addr)
  | .sloAbs addr => .addressed (.abs addr)
  | .bpl off => .addressed (.rel off)
  | .oraIzy zp => .addressed (.izy zp)
  | .kil12 => .implied
  | .sloIzy zp => .addressed (.izy zp)
  | .nopZpx14 zp => .addressed (.zpx zp)
  | .oraZpx zp => .addressed (.zpx zp)
  | .aslZpx zp => .addressed (.zpx zp)
  | .sloZpx zp => .addressed (.zpx zp)
  | .clc => .implied
  | .oraAby base => .addressed (.aby base)
  | .nop1A => .implied
  | .sloAby base => .addressed (.aby base)
  | .nopAbx1C base => .addressed (.abx base)
  | .oraAbx base => .addressed (.abx base)
  | .aslAbx base => .addressed (.abx base)
  | .sloAbx base => .addressed (.abx base)
  | .jsr addr => .addressed (.abs addr)
  | .andIzx zp => .addressed (.izx zp)
  | .kil22 => .implied
  | .rlaIzx zp => .addressed (.izx zp)
  | .bitZp zp => .addressed (.zp zp)
  | .andZp zp => .addressed (.zp zp)
  | .rolZp zp => .addressed (.zp zp)
  | .rlaZp zp => .addressed (.zp zp)
  | .plp => .implied
  | .andImm imm => .immediate imm
  | .rolAcc => .accumulator
  | .aacImm2B imm => .immediate imm
  | .bitAbs addr => .addressed (.abs addr)
  | .andAbs addr => .addressed (.abs addr)
  | .rolAbs addr => .addressed (.abs addr)
  | .rlaAbs addr => .addressed (.abs addr)
  | .bmi off => .addressed (.rel off)
  | .andIzy zp => .addressed (.izy zp)
  | .kil32 => .implied
  | .rlaIzy zp => .addressed (.izy zp)
  | .nopZpx34 zp => .addressed (.zpx zp)
  | .andZpx zp => .addressed (.zpx zp)
  | .rolZpx zp => .addressed (.zpx zp)
  | .rlaZpx zp => .addressed (.zpx zp)
  | .sec => .implied
  | .andAby base => .addressed (.aby base)
  | .nop3A => .implied
  | .rlaAby base => .addressed (.aby base)
  | .nopAbx3C base => .addressed (.abx base)
  | .andAbx base => .addressed (.abx base)
  | .rolAbx base => .addressed (.abx base)
  | .rlaAbx base => .addressed (.abx base)
  | .rti => .implied
  | .eorIzx zp => .addressed (.izx zp)
  | .kil42 => .implied
  | .sreIzx zp => .addressed (.izx zp)
  | .nopZp44 zp => .addressed (.zp zp)
  | .eorZp zp => .addressed (.zp zp)
  | .lsrZp zp => .addressed (.zp zp)
  | .sreZp zp => .addressed (.zp zp)
  | .pha => .implied
  | .eorImm imm => .immediate imm
  | .lsrAcc => .accumulator
  | .asr imm => .immediate imm
  | .jmpAbs addr => .addressed (.abs addr)
  | .eorAbs addr => .addressed (.abs addr)
  | .lsrAbs addr => .addressed (.abs addr)
  | .sreAbs addr => .addressed (.abs addr)
  | .bvc off => .addressed (.rel off)
  | .eorIzy zp => .addressed (.izy zp)
  | .kil52 => .implied
  | .sreIzy zp => .addressed (.izy zp)
  | .nopZpx54 zp => .addressed (.zpx zp)
  | .eorZpx zp => .addressed (.zpx zp)
  | .lsrZpx zp => .addressed (.zpx zp)
  | .sreZpx zp => .addressed (.zpx zp)
  | .cli => .implied
  | .eorAby base => .addressed (.aby base)
  | .nop5A => .implied
  | .sreAby base => .addressed (.aby base)
  | .nopAbx5C base => .addressed (.abx base)
  | .eorAbx base => .addressed (.abx base)
  | .lsrAbx base => .addressed (.abx base)
  | .sreAbx base => .addressed (.abx base)
  | .rts => .implied
  | .adcIzx zp => .addressed (.izx zp)
  | .kil62 => .implied
  | .rraIzx zp => .addressed (.izx zp)
  | .nopZp64 zp => .addressed (.zp zp)
  | .adcZp zp => .addressed (.zp zp)
  | .rorZp zp => .addressed (.zp zp)
  | .rraZp zp => .addressed (.zp zp)
  | .pla => .implied
  | .adcImm imm => .immediate imm
  | .rorAcc => .accumulator
  | .arr imm => .immediate imm
  | .jmpInd ptr => .addressed (.ind ptr)
  | .adcAbs addr => .addressed (.abs addr)
  | .rorAbs addr => .addressed (.abs addr)
  | .rraAbs addr => .addressed (.abs addr)
  | .bvs off => .addressed (.rel off)
  | .adcIzy zp => .addressed (.izy zp)
  | .kil72 => .implied
  | .rraIzy zp => .addressed (.izy zp)
  | .nopZpx74 zp => .addressed (.zpx zp)
  | .adcZpx zp => .addressed (.zpx zp)
  | .rorZpx zp => .addressed (.zpx zp)
  | .rraZpx zp => .addressed (.zpx zp)
  | .sei => .implied
  | .adcAby base => .addressed (.aby base)
  | .nop7A => .implied
  | .rraAby base => .addressed (.aby base)
  | .nopAbx7C base => .addressed (.abx base)
  | .adcAbx base => .addressed (.abx base)
  | .rorAbx base => .addressed (.abx base)
  | .rraAbx base => .addressed (.abx base)
  | .nopImm80 imm => .immediate imm
  | .staIzx zp => .addressed (.izx zp)
  | .nopImm82 imm => .immediate imm
  | .saxIzx zp => .addressed (.izx zp)
  | .styZp zp => .addressed (.zp zp)
  | .staZp zp => .addressed (.zp zp)
  | .stxZp zp => .addressed (.zp zp)
  | .saxZp zp => .addressed (.zp zp)
  | .dey => .implied
  | .nopImm89 imm => .immediate imm
  | .txa => .implied
  | .xaa imm => .immediate imm
  | .styAbs addr => .addressed (.abs addr)
  | .staAbs addr => .addressed (.abs addr)
  | .stxAbs addr => .addressed (.abs addr)
  | .saxAbs addr => .addressed (.abs addr)
  | .bcc off => .addressed (.rel off)
  | .staIzy zp => .addressed (.izy zp)
  | .kil92 => .implied
  | .axaIzy zp => .addressed (.izy zp)
  | .styZpx zp => .addressed (.zpx zp)
  | .staZpx zp => .addressed (.zpx zp)
  | .stxZpy zp => .addressed (.zpy zp)
  | .saxZpy zp => .addressed (.zpy zp)
  | .tya => .implied
  | .staAby base => .addressed (.aby base)
  | .txs => .implied
  | .xas base => .addressed (.aby base)
  | .sya base => .addressed (.abx base)
  | .staAbx base => .addressed (.abx base)
  | .sxa base => .addressed (.aby base)
  | .axaAby base => .addressed (.aby base)
  | .ldyImm imm => .immediate imm
  | .ldaIzx zp => .addressed (.izx zp)
  | .ldxImm imm => .immediate imm
  | .laxIzx zp => .addressed (.izx zp)
  | .ldyZp zp => .addressed (.zp zp)
  | .ldaZp zp => .addressed (.zp zp)
  | .ldxZp zp => .addressed (.zp zp)
  | .laxZp zp => .addressed (.zp zp)
  | .tay => .implied
  | .ldaImm imm => .immediate imm
  | .tax => .implied
  | .atx imm => .immediate imm
  | .ldyAbs addr => .addressed (.abs addr)
  | .ldaAbs addr => .addressed (.abs addr)
  | .ldxAbs addr => .addressed (.abs addr)
  | .laxAbs addr => .addressed (.abs addr)
  | .bcs off => .addressed (.rel off)
  | .ldaIzy zp => .addressed (.izy zp)
  | .kilB2 => .implied
  | .laxIzy zp => .addressed (.izy zp)
  | .ldyZpx zp => .addressed (.zpx zp)
  | .ldaZpx zp => .addressed (.zpx zp)
  | .ldxZpy zp => .addressed (.zpy zp)
  | .laxZpy zp => .addressed (.zpy zp)
  | .clv => .implied
  | .ldaAby base => .addressed (.aby base)
  | .tsx => .implied
  | .lar base => .addressed (.aby base)
  | .ldyAbx base => .addressed (.abx base)
  | .ldaAbx base => .addressed (.abx base)
  | .ldxAby base => .addressed (.aby base)
  | .laxAby base => .addressed (.aby base)
  | .cpyImm imm => .immediate imm
  | .cmpIzx zp => .addressed (.izx zp)
  | .nopImmC2 imm => .immediate imm
  | .dcpIzx zp => .addressed (.izx zp)
  | .cpyZp zp => .addressed (.zp zp)
  | .cmpZp zp => .addressed (.zp zp)
  | .decZp zp => .addressed (.zp zp)
  | .dcpZp zp => .addressed (.zp zp)
  | .iny => .implied
  | .cmpImm imm => .immediate imm
  | .dex => .implied
  | .axs imm => .immediate imm
  | .cpyAbs addr => .addressed (.abs addr)
  | .cmpAbs addr => .addressed (.abs addr)
  | .decAbs addr => .addressed (.abs addr)
  | .dcpAbs addr => .addressed (.abs addr)
  | .bne off => .addressed (.rel off)
  | .cmpIzy zp => .addressed (.izy zp)
  | .kilD2 => .implied
  | .dcpIzy zp => .addressed (.izy zp)
  | .nopZpxD4 zp => .addressed (.zpx zp)
  | .cmpZpx zp => .addressed (.zpx zp)
  | .decZpx zp => .addressed (.zpx zp)
  | .dcpZpx zp => .addressed (.zpx zp)
  | .cld => .implied
  | .cmpAby base => .addressed (.aby base)
  | .nopDA => .implied
  | .dcpAby base => .addressed (.aby base)
  | .nopAbxDC base => .addressed (.abx base)
  | .cmpAbx base => .addressed (.abx base)
  | .decAbx base => .addressed (.abx base)
  | .dcpAbx base => .addressed (.abx base)
  | .cpxImm imm => .immediate imm
  | .sbcIzx zp => .addressed (.izx zp)
  | .nopImmE2 imm => .immediate imm
  | .isbIzx zp => .addressed (.izx zp)
  | .cpxZp zp => .addressed (.zp zp)
  | .sbcZp zp => .addressed (.zp zp)
  | .incZp zp => .addressed (.zp zp)
  | .isbZp zp => .addressed (.zp zp)
  | .inx => .implied
  | .sbcImm imm => .immediate imm
  | .nopEA => .implied
  | .sbcImmEB imm => .immediate imm
  | .cpxAbs addr => .addressed (.abs addr)
  | .sbcAbs addr => .addressed (.abs addr)
  | .incAbs addr => .addressed (.abs addr)
  | .isbAbs addr => .addressed (.abs addr)
  | .beq off => .addressed (.rel off)
  | .sbcIzy zp => .addressed (.izy zp)
  | .kilF2 => .implied
  | .isbIzy zp => .addressed (.izy zp)
  | .nopZpxF4 zp => .addressed (.zpx zp)
  | .sbcZpx zp => .addressed (.zpx zp)
  | .incZpx zp => .addressed (.zpx zp)
  | .isbZpx zp => .addressed (.zpx zp)
  | .sed => .implied
  | .sbcAby base => .addressed (.aby base)
  | .nopFA => .implied
  | .isbAby base => .addressed (.aby base)
  | .nopAbxFC base => .addressed (.abx base)
  | .sbcAbx base => .addressed (.abx base)
  | .incAbx base => .addressed (.abx base)
  | .isbAbx base => .addressed (.abx base)

/-- The mnemonic of an instruction (R84). -/
def Instr.mnemonic : Instr → Mnemonic
  | .brk => .brk
  | .oraIzx _ | .oraZp _ | .oraImm _ | .oraAbs _ | .oraIzy _ | .oraZpx _ | .oraAby _
  | .oraAbx _ => .ora
  | .kil02 | .kil12 | .kil22 | .kil32 | .kil42 | .kil52 | .kil62 | .kil72 | .kil92 | .kilB2
  | .kilD2 | .kilF2 => .kil
  | .sloIzx _ | .sloZp _ | .sloAbs _ | .sloIzy _ | .sloZpx _ | .sloAby _ | .sloAbx _ => .slo
  | .nopZp04 _ | .nopAbs _ | .nopZpx14 _ | .nop1A | .nopAbx1C _ | .nopZpx34 _ | .nop3A
  | .nopAbx3C _ | .nopZp44 _ | .nopZpx54 _ | .nop5A | .nopAbx5C _ | .nopZp64 _ | .nopZpx74 _
  | .nop7A | .nopAbx7C _ | .nopImm80 _ | .nopImm82 _ | .nopImm89 _ | .nopImmC2 _ | .nopZpxD4 _
  | .nopDA | .nopAbxDC _ | .nopImmE2 _ | .nopEA | .nopZpxF4 _ | .nopFA | .nopAbxFC _ => .nop
  | .aslZp _ | .aslAcc | .aslAbs _ | .aslZpx _ | .aslAbx _ => .asl
  | .php => .php
  | .aacImm0B _ | .aacImm2B _ => .aac
  | .bpl _ => .bpl
  | .clc => .clc
  | .jsr _ => .jsr
  | .andIzx _ | .andZp _ | .andImm _ | .andAbs _ | .andIzy _ | .andZpx _ | .andAby _
  | .andAbx _ => .and
  | .rlaIzx _ | .rlaZp _ | .rlaAbs _ | .rlaIzy _ | .rlaZpx _ | .rlaAby _ | .rlaAbx _ => .rla
  | .bitZp _ | .bitAbs _ => .bit
  | .rolZp _ | .rolAcc | .rolAbs _ | .rolZpx _ | .rolAbx _ => .rol
  | .plp => .plp
  | .bmi _ => .bmi
  | .sec => .sec
  | .rti => .rti
  | .eorIzx _ | .eorZp _ | .eorImm _ | .eorAbs _ | .eorIzy _ | .eorZpx _ | .eorAby _
  | .eorAbx _ => .eor
  | .sreIzx _ | .sreZp _ | .sreAbs _ | .sreIzy _ | .sreZpx _ | .sreAby _ | .sreAbx _ => .sre
  | .lsrZp _ | .lsrAcc | .lsrAbs _ | .lsrZpx _ | .lsrAbx _ => .lsr
  | .pha => .pha
  | .asr _ => .asr
  | .jmpAbs _ | .jmpInd _ => .jmp
  | .bvc _ => .bvc
  | .cli => .cli
  | .rts => .rts
  | .adcIzx _ | .adcZp _ | .adcImm _ | .adcAbs _ | .adcIzy _ | .adcZpx _ | .adcAby _
  | .adcAbx _ => .adc
  | .rraIzx _ | .rraZp _ | .rraAbs _ | .rraIzy _ | .rraZpx _ | .rraAby _ | .rraAbx _ => .rra
  | .rorZp _ | .rorAcc | .rorAbs _ | .rorZpx _ | .rorAbx _ => .ror
  | .pla => .pla
  | .arr _ => .arr
  | .bvs _ => .bvs
  | .sei => .sei
  | .staIzx _ | .staZp _ | .staAbs _ | .staIzy _ | .staZpx _ | .staAby _ | .staAbx _ => .sta
  | .saxIzx _ | .saxZp _ | .saxAbs _ | .saxZpy _ => .sax
  | .styZp _ | .styAbs _ | .styZpx _ => .sty
  | .stxZp _ | .stxAbs _ | .stxZpy _ => .stx
  | .dey => .dey
  | .txa => .txa
  | .xaa _ => .xaa
  | .bcc _ => .bcc
  | .axaIzy _ | .axaAby _ => .axa
  | .tya => .tya
  | .txs => .txs
  | .xas _ => .xas
  | .sya _ => .sya
  | .sxa _ => .sxa
  | .ldyImm _ | .ldyZp _ | .ldyAbs _ | .ldyZpx _ | .ldyAbx _ => .ldy
  | .ldaIzx _ | .ldaZp _ | .ldaImm _ | .ldaAbs _ | .ldaIzy _ | .ldaZpx _ | .ldaAby _
  | .ldaAbx _ => .lda
  | .ldxImm _ | .ldxZp _ | .ldxAbs _ | .ldxZpy _ | .ldxAby _ => .ldx
  | .laxIzx _ | .laxZp _ | .laxAbs _ | .laxIzy _ | .laxZpy _ | .laxAby _ => .lax
  | .tay => .tay
  | .tax => .tax
  | .atx _ => .atx
  | .bcs _ => .bcs
  | .clv => .clv
  | .tsx => .tsx
  | .lar _ => .lar
  | .cpyImm _ | .cpyZp _ | .cpyAbs _ => .cpy
  | .cmpIzx _ | .cmpZp _ | .cmpImm _ | .cmpAbs _ | .cmpIzy _ | .cmpZpx _ | .cmpAby _
  | .cmpAbx _ => .cmp
  | .dcpIzx _ | .dcpZp _ | .dcpAbs _ | .dcpIzy _ | .dcpZpx _ | .dcpAby _ | .dcpAbx _ => .dcp
  | .decZp _ | .decAbs _ | .decZpx _ | .decAbx _ => .dec
  | .iny => .iny
  | .dex => .dex
  | .axs _ => .axs
  | .bne _ => .bne
  | .cld => .cld
  | .cpxImm _ | .cpxZp _ | .cpxAbs _ => .cpx
  | .sbcIzx _ | .sbcZp _ | .sbcImm _ | .sbcImmEB _ | .sbcAbs _ | .sbcIzy _ | .sbcZpx _ | .sbcAby _
  | .sbcAbx _ => .sbc
  | .isbIzx _ | .isbZp _ | .isbAbs _ | .isbIzy _ | .isbZpx _ | .isbAby _ | .isbAbx _ => .isb
  | .incZp _ | .incAbs _ | .incZpx _ | .incAbx _ => .inc
  | .inx => .inx
  | .beq _ => .beq
  | .sed => .sed

/-- The operand bytes of a mode, in address order (R81). -/
def AddrMode.bytes : AddrMode → List Byte
  | .zp z | .zpx z | .zpy z | .izx z | .izy z => [z]
  | .rel off => [off]
  | .abs a | .abx a | .aby a | .ind a => [lowByte a, highByte a]

/-- The operand bytes of an operand (R81). -/
def Operand.bytes : Operand → List Byte
  | .implied | .accumulator => []
  | .immediate imm => [imm]
  | .addressed m => m.bytes

/-- The length of an instruction in bytes, known from its first byte alone (R80). -/
def Instr.length (i : Instr) : Nat := 1 + i.operand.bytes.length

/-- The bytes of an instruction, in address order (R81). -/
def encode (i : Instr) : List Byte := i.opcode :: i.operand.bytes

/-- Why bytes do not decode. No opcode byte is illegal (R83, R86): only missing bytes are. -/
inductive DecodeError
  | noBytes
  | truncated (opcode : Byte) (need : Nat)
  deriving DecidableEq, Repr

/-- Decoding the first instruction of a list of bytes, with the bytes after it (R80). -/
def decode : List Byte → Except DecodeError (Instr × List Byte)
  | [] => .error .noBytes
  | op :: rest =>
    match (instrOf op 0 0).length, rest with
    | 1, rest => .ok (instrOf op 0 0, rest)
    | 2, b1 :: rest => .ok (instrOf op b1 0, rest)
    | 3, b1 :: b2 :: rest => .ok (instrOf op b1 b2, rest)
    | need, _ => .error (.truncated op need)

/-- The bytes of a table word: bit 0 is the least significant bit of the first byte, and the bits
above `nbits` are 0. -/
def tableWordBytes (nbits w : Nat) : List Byte :=
  let v := w % 2 ^ nbits
  [BitVec.ofNat 8 v, BitVec.ofNat 8 (v / 256), BitVec.ofNat 8 (v / 65536)]

/-- What the decoder reads from a word numbered as the opcode table numbers it. -/
def decodeTableWord (nbits w : Nat) : Option Instr :=
  match decode (tableWordBytes nbits w) with
  | .ok (i, _) => some i
  | .error _ => none

end Sys2Proof
end

