-- ==== Sys2Proof/Machine/State.lean ====
section
/-! DEFINITION. The machine's state as plain data (R20, and the environment's data of R7), the
reasons a step can stop, and the state after reset. -/

namespace Sys2Proof.Machine

/-- One bus transaction of the core (R51): the output devices observe (R61 d). -/
inductive BusOp
  | rd (addr : Word)
  | wr (addr : Word) (value : Byte)
  deriving DecidableEq, Repr

/-- An environment event (R15): a call of `Interrupt(NMI)` or `Cancel(NMI)`. -/
inductive Event
  | interrupt
  | cancel
  deriving DecidableEq, Repr

/-- A byte of RAM changed by another chip, named by an address the core could read it at (R57,
R61; log 3). -/
structure CellChange where
  addr : Word
  byte : Byte
  deriving DecidableEq, Repr

/-- The environment's answer to one transaction (R7, R53): the byte an external device returns,
the events delivered during it, in order, and the RAM bytes that chips running in its callback
change, in order (R61). -/
structure BusTurn where
  byte : Byte
  events : List Event
  changes : List CellChange
  deriving DecidableEq, Repr

/-- What the host may do between two steps (R6 iii, R280 b, R300, R301, R60 c), and a change of RAM
by another chip there (R61; log 3). -/
inductive HostCall
  | event (e : Event)
  | change (c : CellChange)
  | reset
  | boot
  | loadPc (target : Word)
  | mount (m : Mount)
  deriving DecidableEq, Repr

/-- The interrupt record of R31, with the extra bit `examined` of R284. -/
structure Latch where
  pending : Bool
  raisedAt : Nat
  examined : Bool
  deriving DecidableEq, Repr

/-- The machine status of R20. -/
inductive Status
  | running
  | faulted
  deriving DecidableEq, Repr

/-- RAM contents by cell: in canonical form (`Memory.wf`) the cells rise strictly and none holds
what an unlisted cell reads as (log 2). -/
abbrev Memory := List Host.Cell

structure State where
  /-- A (R22). -/
  a : Byte
  /-- X (R23). -/
  x : Byte
  /-- Y (R23). -/
  y : Byte
  /-- SP (R24). -/
  sp : Byte
  /-- P, kept as the byte software pushes and pulls (R26, R28). -/
  p : Byte
  /-- PC (R25). -/
  pc : Word
  /-- The cycle counter (R30). -/
  cyc : Nat
  /-- The interrupt record (R31). -/
  nmi : Latch
  /-- Running or Faulted (R20, R272). -/
  status : Status
  /-- A Reset() has run (R302; log 22). -/
  resetDone : Bool
  /-- PC has been loaded (R302; log 22). -/
  pcLoaded : Bool
  /-- The parameters of R10. -/
  params : Params
  /-- RAM contents (environment, R52). -/
  mem : Memory
  /-- The bus's ordered mounts (environment, R60). -/
  mounts : List Mount
  /-- The environment's answers to the coming transactions, next first; none left means no
  events and no changes (R7, R53, R61; log 5). -/
  turns : List BusTurn
  /-- The host's calls at the coming step boundaries, next first (R280 b; log 6). -/
  calls : List (List HostCall)
  /-- The environment's coming choices under R284: true defers (log 18). -/
  defers : List Bool
  /-- The model's own counter of free values drawn (log 16). -/
  draws : Nat
  /-- The model's own record of the transactions made, newest first (R14, R58; log 19). -/
  trace : List BusOp
  deriving DecidableEq, Repr

/-- Why the machine stops. -/
inductive Fault
  /-- Raised by any bus transaction to an address no mount covers (R56, R272). `final` is the
  "full register state" of the report, with status Faulted and every update made before the
  transaction (R102). Safe: the hardware stops there too. -/
  | busFault (addr : Word) (final : State)
  /-- Raised by stepping or booting a Faulted machine: a stuck state (R272, U2). Safe. -/
  | alreadyFaulted
  deriving DecidableEq, Repr

/-- Why the model gives no next state. -/
inductive Refusal
  /-- An instruction without a meaning in this model. Safe. -/
  | notModelled (mnemonic : String)
  /-- `Refused(op)` of R250: raised by the unnamed undocumented opcodes, with the state at the
  refusal point. Safe: nothing can be proved of what follows. -/
  | unnamedUndocumented (opcode : Byte) (point : State)
  /-- Raised by `step` before a Reset() and a PC load (R302). Safe. -/
  | notBooted
  /-- Raised by `step` when a cycle counter of finite width overflows (U11; log 11). Safe. -/
  | cycleOverflow (width : Nat)
  deriving DecidableEq, Repr

/-- RAM over the whole address space: environment E0 of 95_test_vectors.md (log 4). -/
def wholeRam : Mount := { first := 0x0000, last := 0xFFFF, device := .ram 0xFFFF }

/-- The machine at power-on (R33, R302): latch Idle, status Running, every register unspecified,
so an argument here. -/
def State.powerOn (a x y sp p : Byte) (pc : Word) (cyc raisedAt : Nat) (params : Params)
    (mem : Memory) (mounts : List Mount) : State where
  a := a
  x := x
  y := y
  sp := sp
  p := p
  pc := pc
  cyc := cyc
  nmi := { pending := false, raisedAt := raisedAt, examined := false }
  status := .running
  resetDone := false
  pcLoaded := false
  params := params
  mem := mem
  mounts := mounts
  turns := []
  calls := []
  defers := []
  draws := 0
  trace := []

/-- The machine right after power-on and Boot() (R300, R301) with the default parameters, in
environment E0: PC is what the reset vector of zeros holds (log 7). -/
def State.reset : State where
  a := 0x00
  x := 0x00
  y := 0x00
  sp := 0xFD
  p := 0x24
  pc := 0x0000
  cyc := 0
  nmi := { pending := false, raisedAt := 0, examined := false }
  status := .running
  resetDone := true
  pcLoaded := true
  params := Params.default
  mem := []
  mounts := [wholeRam]
  turns := []
  calls := []
  defers := []
  draws := 0
  trace := []

end Sys2Proof.Machine
end

