-- ==== Sys2Proof/Machine/Registers.lean ====
section
/-! DEFINITION. Writing each register and each field of the machine: its one home (R12). -/

namespace Sys2Proof.Machine

def State.setA (s : State) (v : Byte) : State := { s with a := v }
def State.setX (s : State) (v : Byte) : State := { s with x := v }
def State.setY (s : State) (v : Byte) : State := { s with y := v }
def State.setSp (s : State) (v : Byte) : State := { s with sp := v }
def State.setP (s : State) (v : Byte) : State := { s with p := v }
def State.setPc (s : State) (v : Word) : State := { s with pc := v }
def State.setCyc (s : State) (v : Nat) : State := { s with cyc := v }
def State.setNmi (s : State) (v : Latch) : State := { s with nmi := v }
def State.setStatus (s : State) (v : Status) : State := { s with status := v }
def State.setResetDone (s : State) (v : Bool) : State := { s with resetDone := v }
def State.setPcLoaded (s : State) (v : Bool) : State := { s with pcLoaded := v }
def State.setMem (s : State) (v : Memory) : State := { s with mem := v }
def State.setMounts (s : State) (v : List Mount) : State := { s with mounts := v }
def State.setTurns (s : State) (v : List BusTurn) : State := { s with turns := v }
def State.setCalls (s : State) (v : List (List HostCall)) : State := { s with calls := v }
def State.setDefers (s : State) (v : List Bool) : State := { s with defers := v }
def State.setDraws (s : State) (v : Nat) : State := { s with draws := v }
def State.setTrace (s : State) (v : List BusOp) : State := { s with trace := v }

/-- `charge(n)` of R13 and R30. -/
def charge (n : Nat) (s : State) : State := s.setCyc (s.cyc + n)

/-- The next value of the draw counter: every free value is drawn afresh (log 16). -/
def State.drawn (s : State) : State := s.setDraws (s.draws + 1)

end Sys2Proof.Machine
end

