-- ==== Sys2Proof/Machine/Flags.lean ====
section
/-! DEFINITION. The flags register P (R26 to R29) and every flag computation of the spec. -/

namespace Sys2Proof.Machine

/-- The eight fields of P (R12, R26). -/
inductive Flag
  | c | z | i | d | b | u | v | n
  deriving DecidableEq, Repr

/-- The bit of P a field occupies (R26). -/
def Flag.index : Flag → Nat
  | .c => 0
  | .z => 1
  | .i => 2
  | .d => 3
  | .b => 4
  | .u => 5
  | .v => 6
  | .n => 7

/-- A byte with bit `k` set or cleared: always both sets and clears (R13, R29). -/
def withBit (p : Byte) (k : Nat) (b : Bool) : Byte :=
  if b then p ||| (1#8 <<< k) else p &&& ~~~(1#8 <<< k)

/-- `P.f` (R12). -/
def flag (f : Flag) (s : State) : Bool := s.p.getLsbD f.index

/-- `setFlag(f, b)` (R13). -/
def setFlag (f : Flag) (b : Bool) (s : State) : State := s.setP (withBit s.p f.index b)

/-- `setNZ(v)` (R13). -/
def setNZ (v : Byte) (s : State) : State :=
  setFlag .z (v == 0) (setFlag .n (v.getLsbD 7) s)

/-- The carry flag as the number 0 or 1. -/
def carryNat (s : State) : Nat := if flag .c s then 1 else 0

/-- The carry flag as a byte 0 or 1. -/
def carryByte (s : State) : Byte := if flag .c s then 1 else 0

/-- `addOverflowed(a, b, result)` (R130). -/
def addOverflowed (a b r : Byte) : Bool :=
  a.getLsbD 7 == b.getLsbD 7 && r.getLsbD 7 != a.getLsbD 7

/-- `subtractOverflowed(a, b, result)` (R130). -/
def subtractOverflowed (a b r : Byte) : Bool :=
  a.getLsbD 7 != b.getLsbD 7 && r.getLsbD 7 == b.getLsbD 7

/-- ADC's integer sum A + m + C, 0 to 511 (R131). -/
def adcSum (m : Byte) (s : State) : Nat := s.a.toNat + m.toNat + carryNat s

/-- SBC's integer difference A - m - (1 - C), -256 to 255 (R132). -/
def sbcDiff (m : Byte) (s : State) : Int :=
  (s.a.toNat : Int) - (m.toNat : Int) - (1 - (carryNat s : Int))

/-- The byte PHP and BRK push: bits 4 and 5 set (R28, R207, R220). -/
def pushedBySoftware (p : Byte) : Byte := p ||| 0x30

/-- The byte NMI service pushes: bit 5 set, bit 4 clear (R28, R282). -/
def pushedByNmi (p : Byte) : Byte := (p ||| 0x20) &&& 0xEF

/-- What PLP and RTI store in P for a pulled byte: bit 5 forced 1, bit 4 forced 0 (R28, R208, R221). -/
def restoredP (v : Byte) : Byte := (v ||| 0x20) &&& 0xEF

end Sys2Proof.Machine
end

