-- ==== Sys2Proof/Machine/Ops.lean ====
section
/-! DEFINITION. The shared operations: RAM, the bus transactions, the stack, the NMI latch, taking
and leaving an exception, the NMI check, and the host's Reset, Boot and Mount. -/

namespace Sys2Proof.Machine

/-- The three outcomes, for an operation that answers an `α`. -/
abbrev Out (α : Type) := Host.Outcome α Fault Refusal

/-- Sequencing (R14): a fault or a refusal abandons everything after it. -/
def andThen {α β : Type} (o : Out α) (f : α → Out β) : Out β :=
  match o with
  | .next a => f a
  | .fault r => .fault r
  | .refused r => .refused r

/-! ### RAM contents -/

/-- What a RAM cell that nothing has written reads as: environment E0's 00 (log 2). -/
def unlistedByte : Byte := 0x00

/-- The byte a cell holds. -/
def Memory.read : Memory → Nat → Byte
  | [], _ => unlistedByte
  | (k, b) :: rest, cell => if k = cell then b else Memory.read rest cell

/-- Writing a cell; a cell that then holds what an unlisted one reads as is not listed. -/
def Memory.write : Memory → Nat → Byte → Memory
  | [], cell, v => if v = unlistedByte then [] else [(cell, v)]
  | (k, b) :: rest, cell, v =>
    if cell < k then
      if v = unlistedByte then (k, b) :: rest else (cell, v) :: (k, b) :: rest
    else if cell = k then
      if v = unlistedByte then rest else (cell, v) :: rest
    else (k, b) :: Memory.write rest cell v

/-- Every listed cell lies above `low`, inside the 16-bit space, in strictly rising order, and
none holds what an unlisted cell reads as. -/
def Memory.wfFrom : Nat → Memory → Bool
  | _, [] => true
  | low, (k, b) :: rest =>
    decide (low ≤ k) && decide (k < 65536) && decide (b ≠ unlistedByte) && Memory.wfFrom (k + 1) rest

/-- The canonical form of RAM contents. -/
def Memory.wf (m : Memory) : Bool := Memory.wfFrom 0 m

/-! ### The bus (R51 to R56) -/

/-- Whether a mount's range holds the address (R60 a). -/
def mountCovers (m : Mount) (addr : Word) : Bool :=
  decide (m.first ≤ addr) && decide (addr ≤ m.last)

/-- The RAM cell an address of the mount names: the device-local address `addr - from`, masked
(R51, R52), kept as the lowest address that names the same cell (log 3). -/
def mountCell (m : Mount) (mask addr : Word) : Nat :=
  m.first.toNat + ((addr - m.first) &&& mask).toNat

/-- The first mount of a list that covers the address (R51). -/
def findMount (ms : List Mount) (addr : Word) : Option Mount :=
  ms.find? fun m => mountCovers m addr

/-- The mount that covers an address; `none` is the unmapped case of R56. -/
def mountAt (s : State) (addr : Word) : Option Mount := findMount s.mounts addr

/-- The RAM cell an address names, if it lies in RAM. -/
def cellOf (s : State) (addr : Word) : Option Nat :=
  match mountAt s addr with
  | some m =>
    match m.device with
    | .ram mask => some (mountCell m mask addr)
    | .external => none
  | none => none

/-- The byte RAM holds at an address, if it lies in RAM: a look, not a transaction. -/
def ramByte (s : State) (addr : Word) : Option Byte := (cellOf s addr).map s.mem.read

/-- `Interrupt(NMI)` (R278). -/
def interruptNmi (s : State) : State :=
  if s.nmi.pending then
    match s.params.nmiReraise with
    | .keep => s
    | .overwrite => s.setNmi { s.nmi with raisedAt := s.cyc }
  else s.setNmi { pending := true, raisedAt := s.cyc, examined := false }

/-- `Cancel(NMI)` (R279). -/
def cancelNmi (s : State) : State := s.setNmi { s.nmi with pending := false }

/-- One environment event applied to the latch (R53). -/
def applyEvent (e : Event) (s : State) : State :=
  match e with
  | .interrupt => interruptNmi s
  | .cancel => cancelNmi s

/-- A list of events applied in order (R53). -/
def applyEvents (es : List Event) (s : State) : State := es.foldl (fun s e => applyEvent e s) s

/-- A change of RAM by another chip: the next read of the cell sees it (R61); an address outside
RAM names nothing that can change here (log 3). -/
def applyChange (c : CellChange) (s : State) : State :=
  match cellOf s c.addr with
  | some cell => s.setMem (s.mem.write cell c.byte)
  | none => s

/-- A list of changes made in order. -/
def applyChanges (cs : List CellChange) (s : State) : State :=
  cs.foldl (fun s c => applyChange c s) s

/-- What runs in the callback of one transaction: the next turn's changes of RAM (R61) and its
events, with the value `cyc` has now (R53); no turn left means neither (log 5). -/
def deliverTurn (s : State) : State :=
  match s.turns with
  | [] => s
  | t :: ts => applyEvents t.events (applyChanges t.changes (s.setTurns ts))

/-- The byte an external device returns: the next turn's, or a free value (R52, U17). -/
def externalByte (addr : Word) (s : State) : Byte :=
  match s.turns with
  | [] => Config.deviceByte s.draws addr
  | t :: _ => t.byte

/-- The byte a read of a mounted address returns (R52). -/
def mountByte (m : Mount) (addr : Word) (s : State) : Byte :=
  match m.device with
  | .ram mask => s.mem.read (mountCell m mask addr)
  | .external => externalByte addr s

/-- A free value is drawn by an external read that no turn answers (log 17). -/
def drawForRead (m : Mount) (s : State) : State :=
  match m.device, s.turns with
  | .external, [] => s.drawn
  | _, _ => s

/-- A transaction that completes is recorded, and then its callback runs (R53, R61). -/
def completeTransaction (op : BusOp) (s : State) : State :=
  deliverTurn (s.setTrace (op :: s.trace))

/-- `raise BusFault(addr)` (R13, R56, R102, R272). -/
def raiseBusFault {α : Type} (addr : Word) (s : State) : Out α :=
  .fault (.busFault addr (s.setStatus .faulted))

/-- `MemRead(addr, 1)` (R51 to R53, R56). -/
def memRead (addr : Word) (s : State) : Out (Byte × State) :=
  match mountAt s addr with
  | none => raiseBusFault addr s
  | some m => .next (mountByte m addr s, completeTransaction (.rd addr) (drawForRead m s))

/-- The effect of a write on the device: RAM stores the byte; what any other device does with it
is its own (R52; log 3). -/
def mountStore (m : Mount) (addr : Word) (v : Byte) (s : State) : State :=
  match m.device with
  | .ram mask => s.setMem (s.mem.write (mountCell m mask addr) v)
  | .external => s

/-- `MemWrite(addr, 1, v)` (R51 to R53, R56). -/
def memWrite (addr : Word) (v : Byte) (s : State) : Out State :=
  match mountAt s addr with
  | none => raiseBusFault addr s
  | some m => .next (completeTransaction (.wr addr v) (mountStore m addr v s))

/-! ### The stack (R24, R27) -/

/-- `STACK_BASE:SP`. -/
def stackAddr (s : State) (sp : Byte) : Word := wordOf s.params.stackBase sp

/-- `push8(v)` (R27): write, then decrement. -/
def push8 (v : Byte) (s : State) : Out State :=
  andThen (memWrite (stackAddr s s.sp) v s) fun s1 => .next (s1.setSp (s1.sp - 1))

/-- `pull8()` (R27): increment, then read. -/
def pull8 (s : State) : Out (Byte × State) :=
  let s1 := s.setSp (s.sp + 1)
  memRead (stackAddr s1 s1.sp) s1

/-- Pushing a 16-bit value, high byte first (R195, R220, R282). -/
def push16 (v : Word) (s : State) : Out State :=
  andThen (push8 (highByte v) s) fun s1 => push8 (lowByte v) s1

/-- Pulling a 16-bit value, low byte first (R196, R221). -/
def pull16 (s : State) : Out (Word × State) :=
  andThen (pull8 s) fun (lo, s1) =>
  andThen (pull8 s1) fun (hi, s2) => .next (wordOf hi lo, s2)

/-! ### Exceptions (R287, R288) -/

/-- The NMI vector (R59). -/
def nmiVector : Word := 0xFFFA

/-- The reset vector (R59). -/
def resetVector : Word := 0xFFFC

/-- The BRK vector (R59). -/
def brkVector : Word := 0xFFFE

/-- Reading a vector, its low byte first, and loading PC from it (R54 b). -/
def loadVector (vector : Word) (s : State) : Out State :=
  andThen (memRead vector s) fun (lo, s1) =>
  andThen (memRead (vector + 1) s1) fun (hi, s2) => .next (s2.setPc (wordOf hi lo))

/-- Trap entry, shared by BRK and NMI (R287): push the return address high then low, push the
given byte for P, set P.I, load PC from the event's vector. -/
def trapEntry (ret : Word) (pushedP : Byte) (vector : Word) (s : State) : Out State :=
  andThen (push16 ret s) fun s1 =>
  andThen (push8 pushedP s1) fun s2 => loadVector vector (setFlag .i true s2)

/-- Trap return (R221, R288): pull P, forcing bit 5 to 1 and bit 4 to 0, then PC with no +1. -/
def trapReturn (s : State) : Out State :=
  andThen (pull8 s) fun (v, s1) =>
  andThen (pull16 (s1.setP (restoredP v))) fun (ret, s2) => .next (s2.setPc ret)

/-! ### The NMI check (R281 to R284) -/

/-- The address of the two throwaway reads (R282, NMI_DUMMY_ADDR). -/
def nmiDummyAddr (s : State) : Word := s.params.nmiDummyAddr.getD s.pc

/-- The last actions of ServiceNmi (R282): the latch goes Idle, the service is charged. -/
def endService (s : State) : State :=
  charge s.params.nmiServiceCycles (s.setNmi { s.nmi with pending := false })

/-- `ServiceNmi()` (R282). -/
def serviceNmi (s : State) : Out State :=
  andThen (memRead (nmiDummyAddr s) s) fun (_, s1) =>
  andThen (memRead (nmiDummyAddr s1) s1) fun (_, s2) =>
  andThen (trapEntry s2.pc (pushedByNmi s2.p) nmiVector s2) fun s3 => .next (endService s3)

/-- The guard of R281. -/
def nmiDue (s : State) : Bool := s.nmi.pending && decide (s.nmi.raisedAt + 1 < s.cyc)

/-- The choice of R284: the next scripted one, or a free value; true defers. -/
def chooseDefer (s : State) : Bool × State :=
  match s.defers with
  | [] => (Config.nmiDefers s.draws, s.drawn)
  | d :: ds => (d, s.setDefers ds)

/-- The check under R284: the first examination of a request services it or defers it, the
second must service it. -/
def nmiCheckFirstOrSecond (s : State) : Out State :=
  if s.nmi.pending then
    if s.nmi.examined then serviceNmi s
    else
      let (defer, s1) := chooseDefer s
      if defer then .next (s1.setNmi { s1.nmi with examined := true }) else serviceNmi s1
  else .next s

/-- `NmiCheck()` (R281; R284 where the parameter says so). -/
def nmiCheck (s : State) : Out State :=
  match s.params.nmiLatency with
  | .formula => if nmiDue s then serviceNmi s else .next s
  | .firstOrSecondCheck => nmiCheckFirstOrSecond s

/-! ### The host's operations (R300 to R302, R60) -/

/-- `Reset()` (R300): PC and status unchanged, the latch too unless RESET_CLEARS_LATCH. -/
def resetCore (s : State) : State :=
  let s1 := (((((s.setP s.params.resetFlags).setA 0).setX 0).setY 0).setSp 0xFD).setCyc 0
  let s2 := s1.setResetDone true
  if s2.params.resetClearsLatch then cancelNmi s2 else s2

/-- The PC load of R301 or of a caller's own choice (R301, last sentence). -/
def loadPc (target : Word) (s : State) : State := (s.setPc target).setPcLoaded true

/-- `Boot()` (R301). A Faulted machine is not revived (R272). -/
def boot (s : State) : Out State :=
  match s.status with
  | .faulted => .fault .alreadyFaulted
  | .running =>
    andThen (loadVector resetVector (resetCore s)) fun s1 => .next (s1.setPcLoaded true)

/-- `Mount(device, from, to)` (R60 d, R274): a range that meets an existing mount, or is
inverted (log 21), is rejected and the bus keeps the mounts it had. -/
def addMount (m : Mount) (s : State) : State :=
  if m.wf && s.mounts.all (fun m' => m'.disjointFrom m) then s.setMounts (s.mounts ++ [m]) else s

/-- One host call between two steps. -/
def hostCall (c : HostCall) (s : State) : Out State :=
  match c with
  | .event e => .next (applyEvent e s)
  | .change c => .next (applyChange c s)
  | .reset => .next (resetCore s)
  | .boot => boot s
  | .loadPc target => .next (loadPc target s)
  | .mount m => .next (addMount m s)

/-- Host calls in order. -/
def hostCalls : List HostCall → State → Out State
  | [], s => .next s
  | c :: cs, s => andThen (hostCall c s) fun s1 => hostCalls cs s1

/-- A step boundary: the calls the host makes there (R280 b; log 6). -/
def boundary (s : State) : Out State :=
  match s.calls with
  | [] => .next s
  | cs :: rest => hostCalls cs (s.setCalls rest)

/-- Whether a Reset() and a PC load have happened (R302). -/
def State.booted (s : State) : Bool := s.resetDone && s.pcLoaded

/-- A cycle counter of finite width refuses at overflow (U11; log 11). -/
def checkCycleWidth (s : State) : Out State :=
  match s.params.cycWidth with
  | none => .next s
  | some w => if s.cyc < 2 ^ w then .next s else .refused (.cycleOverflow w)

end Sys2Proof.Machine
end

