-- ==== Sys2Proof/Machine/Cycles.lean ====
section
/-! DEFINITION. The base cycle costs of the opcode bytes (R87, R92) and their charge. -/

namespace Sys2Proof.Machine

/-- The default BASE_CYCLES (R92), row by high nibble and column by low nibble; the KIL bytes,
which have no count, stand as 0 and are never charged. -/
def defaultCycleRows : List (List Nat) :=
  [[7, 5, 0, 7, 3, 3, 5, 5, 3, 2, 2, 2, 4, 4, 6, 6],
   [2, 5, 0, 8, 3, 3, 5, 5, 2, 4, 2, 7, 4, 4, 7, 7],
   [6, 5, 0, 7, 3, 3, 5, 5, 4, 2, 2, 2, 4, 4, 6, 6],
   [2, 5, 0, 8, 3, 3, 5, 5, 2, 4, 2, 7, 4, 4, 7, 7],
   [6, 5, 0, 7, 3, 3, 5, 5, 3, 2, 2, 2, 3, 4, 6, 6],
   [2, 5, 0, 8, 3, 3, 5, 5, 2, 4, 2, 7, 4, 4, 7, 7],
   [6, 5, 0, 7, 3, 3, 5, 5, 4, 2, 2, 2, 5, 4, 6, 6],
   [2, 5, 0, 8, 3, 3, 5, 5, 2, 4, 2, 7, 4, 4, 7, 7],
   [2, 5, 2, 5, 3, 3, 3, 3, 2, 2, 2, 2, 4, 4, 4, 4],
   [2, 6, 0, 6, 3, 3, 3, 3, 2, 5, 2, 5, 5, 5, 5, 5],
   [2, 5, 2, 5, 3, 3, 3, 3, 2, 2, 2, 2, 4, 4, 4, 4],
   [2, 5, 0, 5, 3, 3, 3, 3, 2, 4, 2, 4, 4, 4, 4, 4],
   [2, 5, 2, 7, 3, 3, 5, 5, 2, 2, 2, 2, 4, 4, 6, 6],
   [2, 5, 0, 8, 3, 3, 5, 5, 2, 4, 2, 7, 4, 4, 7, 7],
   [2, 5, 2, 7, 3, 3, 5, 5, 2, 2, 2, 2, 4, 4, 6, 6],
   [2, 5, 0, 8, 3, 3, 5, 5, 2, 4, 2, 7, 4, 4, 7, 7]]

/-- The default base cost of an opcode byte (R92). -/
def defaultBaseCycles (op : Byte) : Nat :=
  (defaultCycleRows.getD (op.toNat / 16) []).getD (op.toNat % 16) 0

/-- BASE_CYCLES of this instance: the default but for the entries it replaces (R10; log 10). -/
def baseCycles (p : Params) (op : Byte) : Nat :=
  (p.cycleOverrides.lookup op).getD (defaultBaseCycles op)

/-- `charge(BASE_CYCLES[op])` (R100). -/
def chargeBase (op : Byte) (s : State) : State := charge (baseCycles s.params op) s

end Sys2Proof.Machine
end

