-- ==== Sys2Proof/Machine/Operands.lean ====
section
/-! DEFINITION. Operand forms: the addressing-mode resolver (R103 to R115), operand locations
(R13, R101), and the shapes in which an instruction uses its operand. -/

namespace Sys2Proof.Machine

/-! ### The resolver

The operand bytes themselves were read when the instruction was fetched (Fetch.lean, log 14); what
is left of `Resolve_m()` is the pointer reads, the effective address and the surcharge. PC
already holds the address of the following instruction (R25). -/

/-- `zext_16` (R13). -/
def zext16 (v : Byte) : Word := v.setWidth 16

/-- `sext_16` (R13). -/
def sext16 (v : Byte) : Word := v.signExtend 16

/-- `page(a)` (R13). -/
def page (a : Word) : Byte := highByte a

/-- A pointer in the zero page, its high byte's address wrapping inside it (R112, R113). -/
def zeroPagePointer (z : Byte) (s : State) : Out (Word × State) :=
  andThen (memRead (zext16 z) s) fun (lo, s1) =>
  andThen (memRead (zext16 (z + 1)) s1) fun (hi, s2) => .next (wordOf hi lo, s2)

/-- The surcharge of an indexed address: 1 on a page crossing (R87). -/
def crossing (base ea : Word) : Nat := if page ea ≠ page base then 1 else 0

/-- The indexed address and its surcharge (R109, R110, R113). -/
def indexed (base : Word) (index : Byte) (s : State) : Word × State :=
  let ea := base + zext16 index
  (ea, charge (crossing base ea) s)

/-- `Resolve_m()` after the operand bytes, with the charge of its surcharge (R100, R105 to R114). -/
def resolve (m : AddrMode) (s : State) : Out (Word × State) :=
  match m with
  | .zp z => .next (zext16 z, s)
  | .zpx z => .next (zext16 (z + s.x), charge 1 s)
  | .zpy z => .next (zext16 (z + s.y), charge 1 s)
  | .abs addr => .next (addr, s)
  | .abx base => .next (indexed base s.x s)
  | .aby base => .next (indexed base s.y s)
  | .ind ptr =>
    andThen (memRead ptr s) fun (lo, s1) =>
    andThen (memRead (wordOf (highByte ptr) (lowByte ptr + 1)) s1) fun (hi, s2) =>
    .next (wordOf hi lo, s2)
  | .izx z => andThen (zeroPagePointer (z + s.x) s) fun (ea, s1) => .next (ea, charge 1 s1)
  | .izy z => andThen (zeroPagePointer z s) fun (base, s1) => .next (indexed base s1.y s1)
  | .rel off => .next (s.pc + sext16 off, s)

/-! ### Operand locations -/

/-- Where a reading instruction takes its byte from. -/
inductive Source
  | imm (b : Byte)
  | mem (m : AddrMode)
  deriving DecidableEq, Repr

/-- The operand of a shift: "Accumulator | Memory" (R13, R101). -/
inductive Dest
  | acc
  | mem (m : AddrMode)
  deriving DecidableEq, Repr

/-- A resolved operand location (R13). -/
inductive Loc
  | acc
  | mem (ea : Word)
  deriving DecidableEq, Repr

/-- `load(loc)` (R13). -/
def load (loc : Loc) (s : State) : Out (Byte × State) :=
  match loc with
  | .acc => .next (s.a, s)
  | .mem ea => memRead ea s

/-- `store(loc, v)` (R13). -/
def store (loc : Loc) (v : Byte) (s : State) : Out State :=
  match loc with
  | .acc => .next (s.setA v)
  | .mem ea => memWrite ea v s

/-- The location of a shift's operand. -/
def resolveDest (d : Dest) (s : State) : Out (Loc × State) :=
  match d with
  | .acc => .next (.acc, s)
  | .mem m => andThen (resolve m s) fun (ea, s1) => .next (.mem ea, s1)

/-- The operand byte of a reading instruction: the immediate byte, which the fetch has read
(R104; log 14), or a read at the effective address. -/
def readSource (src : Source) (s : State) : Out (Byte × State) :=
  match src with
  | .imm b => .next (b, s)
  | .mem m => andThen (resolve m s) fun (ea, s1) => memRead ea s1

/-! ### Shapes of instruction (R100: resolution, handler, base cost) -/

/-- An instruction with no operand and no transaction. -/
def impliedOp (op : Byte) (handler : State → State) (s : State) : Out State :=
  .next (chargeBase op (handler s))

/-- An instruction that reads its operand and then changes registers and flags only. -/
def readOp (op : Byte) (src : Source) (handler : Byte → State → State) (s : State) : Out State :=
  andThen (readSource src s) fun (v, s1) => .next (chargeBase op (handler v s1))

/-- An instruction that writes a byte to its effective address and never reads it. -/
def storeOp (op : Byte) (m : AddrMode) (value : State → Byte) (s : State) : Out State :=
  andThen (resolve m s) fun (ea, s1) =>
  andThen (memWrite ea (value s1) s1) fun s2 => .next (chargeBase op s2)

/-- Read, compute, write back, then flags (R140, R154): `result` from the byte and the state,
`flags` from the old and the new byte. -/
def modifyAt (loc : Loc) (result : Byte → State → Byte) (flags : Byte → Byte → State → State)
    (s : State) : Out State :=
  andThen (load loc s) fun (v, s1) =>
  andThen (store loc (result v s1) s1) fun s2 => .next (flags v (result v s1) s2)

/-- A read-modify-write instruction. -/
def modifyOp (op : Byte) (d : Dest) (result : Byte → State → Byte)
    (flags : Byte → Byte → State → State) (s : State) : Out State :=
  andThen (resolveDest d s) fun (loc, s1) =>
  andThen (modifyAt loc result flags s1) fun s2 => .next (chargeBase op s2)

/-- A combined undocumented instruction (R230): a read-modify-write, then a reading handler
that reads the cell again, at the one effective address. -/
def combinedOp (op : Byte) (m : AddrMode) (result : Byte → State → Byte)
    (flags : Byte → Byte → State → State) (handler : Byte → State → State) (s : State) :
    Out State :=
  andThen (resolve m s) fun (ea, s1) =>
  andThen (modifyAt (.mem ea) result flags s1) fun s2 =>
  andThen (memRead ea s2) fun (v, s3) => .next (chargeBase op (handler v s3))

/-- Two reading handlers at the one effective address, each with its own read (R230, R231). -/
def twoReadsOp (op : Byte) (m : AddrMode) (first second : Byte → State → State) (s : State) :
    Out State :=
  andThen (resolve m s) fun (ea, s1) =>
  andThen (memRead ea s1) fun (v, s2) =>
  andThen (memRead ea (first v s2)) fun (w, s3) => .next (chargeBase op (second w s3))

/-- An instruction that uses the effective address itself (R101: JMP, JSR, branches, NOPs). -/
def addressOp (op : Byte) (m : AddrMode) (handler : Word → State → Out State) (s : State) :
    Out State :=
  andThen (resolve m s) fun (ea, s1) =>
  andThen (handler ea s1) fun s2 => .next (chargeBase op s2)

/-- An instruction with no operand whose handler makes transactions. -/
def systemOp (op : Byte) (handler : State → Out State) (s : State) : Out State :=
  andThen (handler s) fun s1 => .next (chargeBase op s1)

/-- `raise Refused(op)` (R13, R250): the state is the one after the opcode fetch. -/
def refuse (op : Byte) (s : State) : Out State := .refused (.unnamedUndocumented op s)

end Sys2Proof.Machine
end

