-- ==== Sys2Proof/Machine/Arithmetic.lean ====
section
/-! DEFINITION. Arithmetic and logic: ADC SBC AND ORA EOR BIT (41_arithmetic_logic.md), and the
undocumented second encoding of SBC (R241). -/

namespace Sys2Proof.Machine

/-! ### Handlers, given the operand byte -/

/-- ADC (R131); P.D has no effect (R130). -/
def adcWith (m : Byte) (s : State) : State :=
  let r := BitVec.ofNat 8 (adcSum m s)
  setNZ r ((setFlag .v (addOverflowed s.a m r) (setFlag .c (decide (255 < adcSum m s)) s)).setA r)

/-- SBC (R132); P.D has no effect (R130). -/
def sbcWith (m : Byte) (s : State) : State :=
  let r := BitVec.ofInt 8 (sbcDiff m s)
  setNZ r
    ((setFlag .v (subtractOverflowed s.a m r) (setFlag .c (decide (0 ≤ sbcDiff m s)) s)).setA r)

/-- AND (R133). -/
def andWith (m : Byte) (s : State) : State := setNZ (s.a &&& m) (s.setA (s.a &&& m))

/-- ORA (R134). -/
def oraWith (m : Byte) (s : State) : State := setNZ (s.a ||| m) (s.setA (s.a ||| m))

/-- EOR (R135). -/
def eorWith (m : Byte) (s : State) : State := setNZ (s.a ^^^ m) (s.setA (s.a ^^^ m))

/-- BIT (R136): V and N from the operand itself, A unchanged. -/
def bitWith (m : Byte) (s : State) : State :=
  setFlag .n (m.getLsbD 7) (setFlag .v (m.getLsbD 6) (setFlag .z (s.a &&& m == 0) s))

/-! ### Instructions -/

/-- `ADC (zp,X)` (R131). -/
def execAdcIzx (zp : Byte) (s : State) : Out State := readOp 0x61 (.mem (.izx zp)) adcWith s

/-- `ADC zp` (R131). -/
def execAdcZp (zp : Byte) (s : State) : Out State := readOp 0x65 (.mem (.zp zp)) adcWith s

/-- `ADC #imm` (R131). -/
def execAdcImm (imm : Byte) (s : State) : Out State := readOp 0x69 (.imm imm) adcWith s

/-- `ADC addr` (R131). -/
def execAdcAbs (addr : Word) (s : State) : Out State := readOp 0x6D (.mem (.abs addr)) adcWith s

/-- `ADC (zp),Y` (R131). -/
def execAdcIzy (zp : Byte) (s : State) : Out State := readOp 0x71 (.mem (.izy zp)) adcWith s

/-- `ADC zp,X` (R131). -/
def execAdcZpx (zp : Byte) (s : State) : Out State := readOp 0x75 (.mem (.zpx zp)) adcWith s

/-- `ADC base,Y` (R131). -/
def execAdcAby (base : Word) (s : State) : Out State := readOp 0x79 (.mem (.aby base)) adcWith s

/-- `ADC base,X` (R131). -/
def execAdcAbx (base : Word) (s : State) : Out State := readOp 0x7D (.mem (.abx base)) adcWith s

/-- `SBC (zp,X)` (R132). -/
def execSbcIzx (zp : Byte) (s : State) : Out State := readOp 0xE1 (.mem (.izx zp)) sbcWith s

/-- `SBC zp` (R132). -/
def execSbcZp (zp : Byte) (s : State) : Out State := readOp 0xE5 (.mem (.zp zp)) sbcWith s

/-- `SBC #imm` (R132). -/
def execSbcImm (imm : Byte) (s : State) : Out State := readOp 0xE9 (.imm imm) sbcWith s

/-- `SBC #imm` (R241). -/
def execSbcImmEB (imm : Byte) (s : State) : Out State := readOp 0xEB (.imm imm) sbcWith s

/-- `SBC addr` (R132). -/
def execSbcAbs (addr : Word) (s : State) : Out State := readOp 0xED (.mem (.abs addr)) sbcWith s

/-- `SBC (zp),Y` (R132). -/
def execSbcIzy (zp : Byte) (s : State) : Out State := readOp 0xF1 (.mem (.izy zp)) sbcWith s

/-- `SBC zp,X` (R132). -/
def execSbcZpx (zp : Byte) (s : State) : Out State := readOp 0xF5 (.mem (.zpx zp)) sbcWith s

/-- `SBC base,Y` (R132). -/
def execSbcAby (base : Word) (s : State) : Out State := readOp 0xF9 (.mem (.aby base)) sbcWith s

/-- `SBC base,X` (R132). -/
def execSbcAbx (base : Word) (s : State) : Out State := readOp 0xFD (.mem (.abx base)) sbcWith s

/-- `AND (zp,X)` (R133). -/
def execAndIzx (zp : Byte) (s : State) : Out State := readOp 0x21 (.mem (.izx zp)) andWith s

/-- `AND zp` (R133). -/
def execAndZp (zp : Byte) (s : State) : Out State := readOp 0x25 (.mem (.zp zp)) andWith s

/-- `AND #imm` (R133). -/
def execAndImm (imm : Byte) (s : State) : Out State := readOp 0x29 (.imm imm) andWith s

/-- `AND addr` (R133). -/
def execAndAbs (addr : Word) (s : State) : Out State := readOp 0x2D (.mem (.abs addr)) andWith s

/-- `AND (zp),Y` (R133). -/
def execAndIzy (zp : Byte) (s : State) : Out State := readOp 0x31 (.mem (.izy zp)) andWith s

/-- `AND zp,X` (R133). -/
def execAndZpx (zp : Byte) (s : State) : Out State := readOp 0x35 (.mem (.zpx zp)) andWith s

/-- `AND base,Y` (R133). -/
def execAndAby (base : Word) (s : State) : Out State := readOp 0x39 (.mem (.aby base)) andWith s

/-- `AND base,X` (R133). -/
def execAndAbx (base : Word) (s : State) : Out State := readOp 0x3D (.mem (.abx base)) andWith s

/-- `ORA (zp,X)` (R134). -/
def execOraIzx (zp : Byte) (s : State) : Out State := readOp 0x01 (.mem (.izx zp)) oraWith s

/-- `ORA zp` (R134). -/
def execOraZp (zp : Byte) (s : State) : Out State := readOp 0x05 (.mem (.zp zp)) oraWith s

/-- `ORA #imm` (R134). -/
def execOraImm (imm : Byte) (s : State) : Out State := readOp 0x09 (.imm imm) oraWith s

/-- `ORA addr` (R134). -/
def execOraAbs (addr : Word) (s : State) : Out State := readOp 0x0D (.mem (.abs addr)) oraWith s

/-- `ORA (zp),Y` (R134). -/
def execOraIzy (zp : Byte) (s : State) : Out State := readOp 0x11 (.mem (.izy zp)) oraWith s

/-- `ORA zp,X` (R134). -/
def execOraZpx (zp : Byte) (s : State) : Out State := readOp 0x15 (.mem (.zpx zp)) oraWith s

/-- `ORA base,Y` (R134). -/
def execOraAby (base : Word) (s : State) : Out State := readOp 0x19 (.mem (.aby base)) oraWith s

/-- `ORA base,X` (R134). -/
def execOraAbx (base : Word) (s : State) : Out State := readOp 0x1D (.mem (.abx base)) oraWith s

/-- `EOR (zp,X)` (R135). -/
def execEorIzx (zp : Byte) (s : State) : Out State := readOp 0x41 (.mem (.izx zp)) eorWith s

/-- `EOR zp` (R135). -/
def execEorZp (zp : Byte) (s : State) : Out State := readOp 0x45 (.mem (.zp zp)) eorWith s

/-- `EOR #imm` (R135). -/
def execEorImm (imm : Byte) (s : State) : Out State := readOp 0x49 (.imm imm) eorWith s

/-- `EOR addr` (R135). -/
def execEorAbs (addr : Word) (s : State) : Out State := readOp 0x4D (.mem (.abs addr)) eorWith s

/-- `EOR (zp),Y` (R135). -/
def execEorIzy (zp : Byte) (s : State) : Out State := readOp 0x51 (.mem (.izy zp)) eorWith s

/-- `EOR zp,X` (R135). -/
def execEorZpx (zp : Byte) (s : State) : Out State := readOp 0x55 (.mem (.zpx zp)) eorWith s

/-- `EOR base,Y` (R135). -/
def execEorAby (base : Word) (s : State) : Out State := readOp 0x59 (.mem (.aby base)) eorWith s

/-- `EOR base,X` (R135). -/
def execEorAbx (base : Word) (s : State) : Out State := readOp 0x5D (.mem (.abx base)) eorWith s

/-- `BIT zp` (R136). -/
def execBitZp (zp : Byte) (s : State) : Out State := readOp 0x24 (.mem (.zp zp)) bitWith s

/-- `BIT addr` (R136). -/
def execBitAbs (addr : Word) (s : State) : Out State := readOp 0x2C (.mem (.abs addr)) bitWith s

end Sys2Proof.Machine
end

