-- ==== Sys2Proof/Machine/Branch.lean ====
section
/-! DEFINITION. Control transfer: branches, JMP, JSR, RTS (45_branch_jump.md). PC already holds the
address of the following instruction (R25). -/

namespace Sys2Proof.Machine

/-! ### Handlers -/

/-- The cycles a taken branch adds (R185): 1, and 1 more if the target's page differs from the
following instruction's. -/
def branchExtra (target : Word) (s : State) : Nat := if page target ≠ page s.pc then 2 else 1

/-- `branch(cond, Mem(target))` (R185), the condition being that a flag has a value (R186 to R193). -/
def branch (f : Flag) (value : Bool) (target : Word) (s : State) : Out State :=
  if flag f s = value then .next ((charge (branchExtra target s) s).setPc target) else .next s

/-- JMP (R194). -/
def jump (ea : Word) (s : State) : Out State := .next (s.setPc ea)

/-- JSR (R195): push PC - 1, then jump. -/
def jumpSubroutine (ea : Word) (s : State) : Out State :=
  andThen (push16 (s.pc - 1) s) fun s1 => .next (s1.setPc ea)

/-- RTS (R196): pull, add 1. -/
def returnFromSubroutine (s : State) : Out State :=
  andThen (pull16 s) fun (ret, s1) => .next (s1.setPc (ret + 1))

/-! ### Instructions -/

/-- `BCC off` (R186). -/
def execBcc (off : Byte) (s : State) : Out State := addressOp 0x90 (.rel off) (branch .c false) s

/-- `BCS off` (R187). -/
def execBcs (off : Byte) (s : State) : Out State := addressOp 0xB0 (.rel off) (branch .c true) s

/-- `BEQ off` (R188). -/
def execBeq (off : Byte) (s : State) : Out State := addressOp 0xF0 (.rel off) (branch .z true) s

/-- `BMI off` (R189). -/
def execBmi (off : Byte) (s : State) : Out State := addressOp 0x30 (.rel off) (branch .n true) s

/-- `BNE off` (R190). -/
def execBne (off : Byte) (s : State) : Out State := addressOp 0xD0 (.rel off) (branch .z false) s

/-- `BPL off` (R191). -/
def execBpl (off : Byte) (s : State) : Out State := addressOp 0x10 (.rel off) (branch .n false) s

/-- `BVC off` (R192). -/
def execBvc (off : Byte) (s : State) : Out State := addressOp 0x50 (.rel off) (branch .v false) s

/-- `BVS off` (R193). -/
def execBvs (off : Byte) (s : State) : Out State := addressOp 0x70 (.rel off) (branch .v true) s

/-- `JMP addr` (R194). -/
def execJmpAbs (addr : Word) (s : State) : Out State := addressOp 0x4C (.abs addr) jump s

/-- `JMP (ptr)` (R194). -/
def execJmpInd (ptr : Word) (s : State) : Out State := addressOp 0x6C (.ind ptr) jump s

/-- `JSR addr` (R195). -/
def execJsr (addr : Word) (s : State) : Out State := addressOp 0x20 (.abs addr) jumpSubroutine s

/-- `RTS` (R196). -/
def execRts (s : State) : Out State := systemOp 0x60 returnFromSubroutine s

end Sys2Proof.Machine
end

