-- ==== Sys2Proof/Machine/CompareIncDec.lean ====
section
/-! DEFINITION. Compares, increments and decrements (43_compare_incdec.md). -/

namespace Sys2Proof.Machine

/-! ### Handlers -/

/-- `compare(reg, m)` (R150). -/
def compareWith (reg m : Byte) (s : State) : State :=
  setNZ (reg - m) (setFlag .c (decide (m.toNat ≤ reg.toNat)) s)

/-- CMP (R151). -/
def cmpWith (m : Byte) (s : State) : State := compareWith s.a m s

/-- CPX (R152). -/
def cpxWith (m : Byte) (s : State) : State := compareWith s.x m s

/-- CPY (R153). -/
def cpyWith (m : Byte) (s : State) : State := compareWith s.y m s

/-- INC's result (R154). -/
def incResult (v : Byte) (_s : State) : Byte := v + 1

/-- DEC's result (R155). -/
def decResult (v : Byte) (_s : State) : Byte := v - 1

/-- The flags of INC and DEC: N and Z from the result, C unaffected (R154, R155). -/
def resultFlags (_v r : Byte) (s : State) : State := setNZ r s

/-- INX (R156). -/
def inx (s : State) : State := setNZ (s.x + 1) (s.setX (s.x + 1))

/-- INY (R157). -/
def iny (s : State) : State := setNZ (s.y + 1) (s.setY (s.y + 1))

/-- DEX (R158). -/
def dex (s : State) : State := setNZ (s.x - 1) (s.setX (s.x - 1))

/-- DEY (R159). -/
def dey (s : State) : State := setNZ (s.y - 1) (s.setY (s.y - 1))

/-! ### Instructions -/

/-- `CMP (zp,X)` (R151). -/
def execCmpIzx (zp : Byte) (s : State) : Out State := readOp 0xC1 (.mem (.izx zp)) cmpWith s

/-- `CMP zp` (R151). -/
def execCmpZp (zp : Byte) (s : State) : Out State := readOp 0xC5 (.mem (.zp zp)) cmpWith s

/-- `CMP #imm` (R151). -/
def execCmpImm (imm : Byte) (s : State) : Out State := readOp 0xC9 (.imm imm) cmpWith s

/-- `CMP addr` (R151). -/
def execCmpAbs (addr : Word) (s : State) : Out State := readOp 0xCD (.mem (.abs addr)) cmpWith s

/-- `CMP (zp),Y` (R151). -/
def execCmpIzy (zp : Byte) (s : State) : Out State := readOp 0xD1 (.mem (.izy zp)) cmpWith s

/-- `CMP zp,X` (R151). -/
def execCmpZpx (zp : Byte) (s : State) : Out State := readOp 0xD5 (.mem (.zpx zp)) cmpWith s

/-- `CMP base,Y` (R151). -/
def execCmpAby (base : Word) (s : State) : Out State := readOp 0xD9 (.mem (.aby base)) cmpWith s

/-- `CMP base,X` (R151). -/
def execCmpAbx (base : Word) (s : State) : Out State := readOp 0xDD (.mem (.abx base)) cmpWith s

/-- `CPX #imm` (R152). -/
def execCpxImm (imm : Byte) (s : State) : Out State := readOp 0xE0 (.imm imm) cpxWith s

/-- `CPX zp` (R152). -/
def execCpxZp (zp : Byte) (s : State) : Out State := readOp 0xE4 (.mem (.zp zp)) cpxWith s

/-- `CPX addr` (R152). -/
def execCpxAbs (addr : Word) (s : State) : Out State := readOp 0xEC (.mem (.abs addr)) cpxWith s

/-- `CPY #imm` (R153). -/
def execCpyImm (imm : Byte) (s : State) : Out State := readOp 0xC0 (.imm imm) cpyWith s

/-- `CPY zp` (R153). -/
def execCpyZp (zp : Byte) (s : State) : Out State := readOp 0xC4 (.mem (.zp zp)) cpyWith s

/-- `CPY addr` (R153). -/
def execCpyAbs (addr : Word) (s : State) : Out State := readOp 0xCC (.mem (.abs addr)) cpyWith s

/-- `INC zp` (R154). -/
def execIncZp (zp : Byte) (s : State) : Out State :=
  modifyOp 0xE6 (.mem (.zp zp)) incResult resultFlags s

/-- `INC addr` (R154). -/
def execIncAbs (addr : Word) (s : State) : Out State :=
  modifyOp 0xEE (.mem (.abs addr)) incResult resultFlags s

/-- `INC zp,X` (R154). -/
def execIncZpx (zp : Byte) (s : State) : Out State :=
  modifyOp 0xF6 (.mem (.zpx zp)) incResult resultFlags s

/-- `INC base,X` (R154). -/
def execIncAbx (base : Word) (s : State) : Out State :=
  modifyOp 0xFE (.mem (.abx base)) incResult resultFlags s

/-- `DEC zp` (R155). -/
def execDecZp (zp : Byte) (s : State) : Out State :=
  modifyOp 0xC6 (.mem (.zp zp)) decResult resultFlags s

/-- `DEC addr` (R155). -/
def execDecAbs (addr : Word) (s : State) : Out State :=
  modifyOp 0xCE (.mem (.abs addr)) decResult resultFlags s

/-- `DEC zp,X` (R155). -/
def execDecZpx (zp : Byte) (s : State) : Out State :=
  modifyOp 0xD6 (.mem (.zpx zp)) decResult resultFlags s

/-- `DEC base,X` (R155). -/
def execDecAbx (base : Word) (s : State) : Out State :=
  modifyOp 0xDE (.mem (.abx base)) decResult resultFlags s

/-- `INX` (R156). -/
def execInx (s : State) : Out State := impliedOp 0xE8 inx s

/-- `INY` (R157). -/
def execIny (s : State) : Out State := impliedOp 0xC8 iny s

/-- `DEX` (R158). -/
def execDex (s : State) : Out State := impliedOp 0xCA dex s

/-- `DEY` (R159). -/
def execDey (s : State) : Out State := impliedOp 0x88 dey s

end Sys2Proof.Machine
end

