-- ==== Sys2Proof/Machine/LoadStore.lean ====
section
/-! DEFINITION. Loads, stores and register transfers (44_load_store_transfer.md). -/

namespace Sys2Proof.Machine

/-! ### Handlers -/

/-- LDA (R165). -/
def ldaWith (m : Byte) (s : State) : State := setNZ m (s.setA m)

/-- LDX (R166). -/
def ldxWith (m : Byte) (s : State) : State := setNZ m (s.setX m)

/-- LDY (R167). -/
def ldyWith (m : Byte) (s : State) : State := setNZ m (s.setY m)

/-- TAX (R171). -/
def tax (s : State) : State := setNZ s.a (s.setX s.a)

/-- TAY (R172). -/
def tay (s : State) : State := setNZ s.a (s.setY s.a)

/-- TXA (R173). -/
def txa (s : State) : State := setNZ s.x (s.setA s.x)

/-- TYA (R174). -/
def tya (s : State) : State := setNZ s.y (s.setA s.y)

/-- TSX (R175). -/
def tsx (s : State) : State := setNZ s.sp (s.setX s.sp)

/-- TXS (R176): no flag effect. -/
def txs (s : State) : State := s.setSp s.x

/-! ### Instructions -/

/-- `LDA (zp,X)` (R165). -/
def execLdaIzx (zp : Byte) (s : State) : Out State := readOp 0xA1 (.mem (.izx zp)) ldaWith s

/-- `LDA zp` (R165). -/
def execLdaZp (zp : Byte) (s : State) : Out State := readOp 0xA5 (.mem (.zp zp)) ldaWith s

/-- `LDA #imm` (R165). -/
def execLdaImm (imm : Byte) (s : State) : Out State := readOp 0xA9 (.imm imm) ldaWith s

/-- `LDA addr` (R165). -/
def execLdaAbs (addr : Word) (s : State) : Out State := readOp 0xAD (.mem (.abs addr)) ldaWith s

/-- `LDA (zp),Y` (R165). -/
def execLdaIzy (zp : Byte) (s : State) : Out State := readOp 0xB1 (.mem (.izy zp)) ldaWith s

/-- `LDA zp,X` (R165). -/
def execLdaZpx (zp : Byte) (s : State) : Out State := readOp 0xB5 (.mem (.zpx zp)) ldaWith s

/-- `LDA base,Y` (R165). -/
def execLdaAby (base : Word) (s : State) : Out State := readOp 0xB9 (.mem (.aby base)) ldaWith s

/-- `LDA base,X` (R165). -/
def execLdaAbx (base : Word) (s : State) : Out State := readOp 0xBD (.mem (.abx base)) ldaWith s

/-- `LDX #imm` (R166). -/
def execLdxImm (imm : Byte) (s : State) : Out State := readOp 0xA2 (.imm imm) ldxWith s

/-- `LDX zp` (R166). -/
def execLdxZp (zp : Byte) (s : State) : Out State := readOp 0xA6 (.mem (.zp zp)) ldxWith s

/-- `LDX addr` (R166). -/
def execLdxAbs (addr : Word) (s : State) : Out State := readOp 0xAE (.mem (.abs addr)) ldxWith s

/-- `LDX zp,Y` (R166). -/
def execLdxZpy (zp : Byte) (s : State) : Out State := readOp 0xB6 (.mem (.zpy zp)) ldxWith s

/-- `LDX base,Y` (R166). -/
def execLdxAby (base : Word) (s : State) : Out State := readOp 0xBE (.mem (.aby base)) ldxWith s

/-- `LDY #imm` (R167). -/
def execLdyImm (imm : Byte) (s : State) : Out State := readOp 0xA0 (.imm imm) ldyWith s

/-- `LDY zp` (R167). -/
def execLdyZp (zp : Byte) (s : State) : Out State := readOp 0xA4 (.mem (.zp zp)) ldyWith s

/-- `LDY addr` (R167). -/
def execLdyAbs (addr : Word) (s : State) : Out State := readOp 0xAC (.mem (.abs addr)) ldyWith s

/-- `LDY zp,X` (R167). -/
def execLdyZpx (zp : Byte) (s : State) : Out State := readOp 0xB4 (.mem (.zpx zp)) ldyWith s

/-- `LDY base,X` (R167). -/
def execLdyAbx (base : Word) (s : State) : Out State := readOp 0xBC (.mem (.abx base)) ldyWith s

/-- `STA (zp,X)` (R168). -/
def execStaIzx (zp : Byte) (s : State) : Out State := storeOp 0x81 (.izx zp) (fun s => s.a) s

/-- `STA zp` (R168). -/
def execStaZp (zp : Byte) (s : State) : Out State := storeOp 0x85 (.zp zp) (fun s => s.a) s

/-- `STA addr` (R168). -/
def execStaAbs (addr : Word) (s : State) : Out State := storeOp 0x8D (.abs addr) (fun s => s.a) s

/-- `STA (zp),Y` (R168). -/
def execStaIzy (zp : Byte) (s : State) : Out State := storeOp 0x91 (.izy zp) (fun s => s.a) s

/-- `STA zp,X` (R168). -/
def execStaZpx (zp : Byte) (s : State) : Out State := storeOp 0x95 (.zpx zp) (fun s => s.a) s

/-- `STA base,Y` (R168). -/
def execStaAby (base : Word) (s : State) : Out State := storeOp 0x99 (.aby base) (fun s => s.a) s

/-- `STA base,X` (R168). -/
def execStaAbx (base : Word) (s : State) : Out State := storeOp 0x9D (.abx base) (fun s => s.a) s

/-- `STX zp` (R169). -/
def execStxZp (zp : Byte) (s : State) : Out State := storeOp 0x86 (.zp zp) (fun s => s.x) s

/-- `STX addr` (R169). -/
def execStxAbs (addr : Word) (s : State) : Out State := storeOp 0x8E (.abs addr) (fun s => s.x) s

/-- `STX zp,Y` (R169). -/
def execStxZpy (zp : Byte) (s : State) : Out State := storeOp 0x96 (.zpy zp) (fun s => s.x) s

/-- `STY zp` (R170). -/
def execStyZp (zp : Byte) (s : State) : Out State := storeOp 0x84 (.zp zp) (fun s => s.y) s

/-- `STY addr` (R170). -/
def execStyAbs (addr : Word) (s : State) : Out State := storeOp 0x8C (.abs addr) (fun s => s.y) s

/-- `STY zp,X` (R170). -/
def execStyZpx (zp : Byte) (s : State) : Out State := storeOp 0x94 (.zpx zp) (fun s => s.y) s

/-- `TAX` (R171). -/
def execTax (s : State) : Out State := impliedOp 0xAA tax s

/-- `TAY` (R172). -/
def execTay (s : State) : Out State := impliedOp 0xA8 tay s

/-- `TXA` (R173). -/
def execTxa (s : State) : Out State := impliedOp 0x8A txa s

/-- `TYA` (R174). -/
def execTya (s : State) : Out State := impliedOp 0x98 tya s

/-- `TSX` (R175). -/
def execTsx (s : State) : Out State := impliedOp 0xBA tsx s

/-- `TXS` (R176). -/
def execTxs (s : State) : Out State := impliedOp 0x9A txs s

end Sys2Proof.Machine
end

