-- ==== Sys2Proof/Machine/Shift.lean ====
section
/-! DEFINITION. Shifts and rotates: ASL LSR ROL ROR (42_shift_rotate.md), on A or on memory. -/

namespace Sys2Proof.Machine

/-! ### Handlers: the result from the operand, then the flags from the operand and the result -/

/-- ASL's result (R141). -/
def aslResult (v : Byte) (_s : State) : Byte := v <<< 1

/-- ASL's flags (R141): C is the bit shifted off. -/
def aslFlags (v r : Byte) (s : State) : State := setNZ r (setFlag .c (v.getLsbD 7) s)

/-- LSR's result (R142). -/
def lsrResult (v : Byte) (_s : State) : Byte := v >>> 1

/-- LSR's flags (R142). -/
def lsrFlags (v r : Byte) (s : State) : State := setNZ r (setFlag .c (v.getLsbD 0) s)

/-- ROL's result (R143): the old carry becomes bit 0. -/
def rolResult (v : Byte) (s : State) : Byte := (v <<< 1) ||| carryByte s

/-- ROL's flags (R143). -/
def rolFlags (v r : Byte) (s : State) : State := setNZ r (setFlag .c (v.getLsbD 7) s)

/-- ROR's result (R144): the old carry becomes bit 7. -/
def rorResult (v : Byte) (s : State) : Byte := (v >>> 1) ||| (carryByte s <<< 7)

/-- ROR's flags (R144). -/
def rorFlags (v r : Byte) (s : State) : State := setNZ r (setFlag .c (v.getLsbD 0) s)

/-! ### Instructions -/

/-- `ASL zp` (R141). -/
def execAslZp (zp : Byte) (s : State) : Out State :=
  modifyOp 0x06 (.mem (.zp zp)) aslResult aslFlags s

/-- `ASL A` (R141). -/
def execAslAcc (s : State) : Out State := modifyOp 0x0A .acc aslResult aslFlags s

/-- `ASL addr` (R141). -/
def execAslAbs (addr : Word) (s : State) : Out State :=
  modifyOp 0x0E (.mem (.abs addr)) aslResult aslFlags s

/-- `ASL zp,X` (R141). -/
def execAslZpx (zp : Byte) (s : State) : Out State :=
  modifyOp 0x16 (.mem (.zpx zp)) aslResult aslFlags s

/-- `ASL base,X` (R141). -/
def execAslAbx (base : Word) (s : State) : Out State :=
  modifyOp 0x1E (.mem (.abx base)) aslResult aslFlags s

/-- `LSR zp` (R142). -/
def execLsrZp (zp : Byte) (s : State) : Out State :=
  modifyOp 0x46 (.mem (.zp zp)) lsrResult lsrFlags s

/-- `LSR A` (R142). -/
def execLsrAcc (s : State) : Out State := modifyOp 0x4A .acc lsrResult lsrFlags s

/-- `LSR addr` (R142). -/
def execLsrAbs (addr : Word) (s : State) : Out State :=
  modifyOp 0x4E (.mem (.abs addr)) lsrResult lsrFlags s

/-- `LSR zp,X` (R142). -/
def execLsrZpx (zp : Byte) (s : State) : Out State :=
  modifyOp 0x56 (.mem (.zpx zp)) lsrResult lsrFlags s

/-- `LSR base,X` (R142). -/
def execLsrAbx (base : Word) (s : State) : Out State :=
  modifyOp 0x5E (.mem (.abx base)) lsrResult lsrFlags s

/-- `ROL zp` (R143). -/
def execRolZp (zp : Byte) (s : State) : Out State :=
  modifyOp 0x26 (.mem (.zp zp)) rolResult rolFlags s

/-- `ROL A` (R143). -/
def execRolAcc (s : State) : Out State := modifyOp 0x2A .acc rolResult rolFlags s

/-- `ROL addr` (R143). -/
def execRolAbs (addr : Word) (s : State) : Out State :=
  modifyOp 0x2E (.mem (.abs addr)) rolResult rolFlags s

/-- `ROL zp,X` (R143). -/
def execRolZpx (zp : Byte) (s : State) : Out State :=
  modifyOp 0x36 (.mem (.zpx zp)) rolResult rolFlags s

/-- `ROL base,X` (R143). -/
def execRolAbx (base : Word) (s : State) : Out State :=
  modifyOp 0x3E (.mem (.abx base)) rolResult rolFlags s

/-- `ROR zp` (R144). -/
def execRorZp (zp : Byte) (s : State) : Out State :=
  modifyOp 0x66 (.mem (.zp zp)) rorResult rorFlags s

/-- `ROR A` (R144). -/
def execRorAcc (s : State) : Out State := modifyOp 0x6A .acc rorResult rorFlags s

/-- `ROR addr` (R144). -/
def execRorAbs (addr : Word) (s : State) : Out State :=
  modifyOp 0x6E (.mem (.abs addr)) rorResult rorFlags s

/-- `ROR zp,X` (R144). -/
def execRorZpx (zp : Byte) (s : State) : Out State :=
  modifyOp 0x76 (.mem (.zpx zp)) rorResult rorFlags s

/-- `ROR base,X` (R144). -/
def execRorAbx (base : Word) (s : State) : Out State :=
  modifyOp 0x7E (.mem (.abx base)) rorResult rorFlags s

end Sys2Proof.Machine
end

