-- ==== Sys2Proof/Machine/System.lean ====
section
/-! DEFINITION. Stack, flag and system instructions (46_stack_flag_system.md), and every NOP (R216,
R239). -/

namespace Sys2Proof.Machine

/-! ### Handlers -/

/-- PHA (R205). -/
def pushA (s : State) : Out State := push8 s.a s

/-- PLA (R206). -/
def pullA (s : State) : Out State :=
  andThen (pull8 s) fun (v, s1) => .next (setNZ v (s1.setA v))

/-- PHP (R207). -/
def pushStatus (s : State) : Out State := push8 (pushedBySoftware s.p) s

/-- PLP (R208). -/
def pullStatus (s : State) : Out State :=
  andThen (pull8 s) fun (v, s1) => .next (s1.setP (restoredP v))

/-- BRK (R220): trap entry with the return address PC + 1 and bit 4 of the pushed P set. -/
def softwareInterrupt (s : State) : Out State :=
  trapEntry (s.pc + 1) (pushedBySoftware s.p) brkVector s

/-- NOP (R216, R239). -/
def nothing (s : State) : State := s

/-- A NOP with an effective address: the cell there is not read (R239). -/
def nothingAt (_ea : Word) (s : State) : Out State := .next s

/-! ### Instructions -/

/-- `PHA` (R205). -/
def execPha (s : State) : Out State := systemOp 0x48 pushA s

/-- `PLA` (R206). -/
def execPla (s : State) : Out State := systemOp 0x68 pullA s

/-- `PHP` (R207). -/
def execPhp (s : State) : Out State := systemOp 0x08 pushStatus s

/-- `PLP` (R208). -/
def execPlp (s : State) : Out State := systemOp 0x28 pullStatus s

/-- `CLC` (R209). -/
def execClc (s : State) : Out State := impliedOp 0x18 (setFlag .c false) s

/-- `SEC` (R210). -/
def execSec (s : State) : Out State := impliedOp 0x38 (setFlag .c true) s

/-- `CLI` (R211). -/
def execCli (s : State) : Out State := impliedOp 0x58 (setFlag .i false) s

/-- `SEI` (R212). -/
def execSei (s : State) : Out State := impliedOp 0x78 (setFlag .i true) s

/-- `CLV` (R213). -/
def execClv (s : State) : Out State := impliedOp 0xB8 (setFlag .v false) s

/-- `CLD` (R214). -/
def execCld (s : State) : Out State := impliedOp 0xD8 (setFlag .d false) s

/-- `SED` (R215). -/
def execSed (s : State) : Out State := impliedOp 0xF8 (setFlag .d true) s

/-- `NOP zp` (R239). -/
def execNopZp04 (zp : Byte) (s : State) : Out State := addressOp 0x04 (.zp zp) nothingAt s

/-- `NOP addr` (R239). -/
def execNopAbs (addr : Word) (s : State) : Out State := addressOp 0x0C (.abs addr) nothingAt s

/-- `NOP zp,X` (R239). -/
def execNopZpx14 (zp : Byte) (s : State) : Out State := addressOp 0x14 (.zpx zp) nothingAt s

/-- `NOP` (R239). -/
def execNop1A (s : State) : Out State := impliedOp 0x1A nothing s

/-- `NOP base,X` (R239). -/
def execNopAbx1C (base : Word) (s : State) : Out State := addressOp 0x1C (.abx base) nothingAt s

/-- `NOP zp,X` (R239). -/
def execNopZpx34 (zp : Byte) (s : State) : Out State := addressOp 0x34 (.zpx zp) nothingAt s

/-- `NOP` (R239). -/
def execNop3A (s : State) : Out State := impliedOp 0x3A nothing s

/-- `NOP base,X` (R239). -/
def execNopAbx3C (base : Word) (s : State) : Out State := addressOp 0x3C (.abx base) nothingAt s

/-- `NOP zp` (R239). -/
def execNopZp44 (zp : Byte) (s : State) : Out State := addressOp 0x44 (.zp zp) nothingAt s

/-- `NOP zp,X` (R239). -/
def execNopZpx54 (zp : Byte) (s : State) : Out State := addressOp 0x54 (.zpx zp) nothingAt s

/-- `NOP` (R239). -/
def execNop5A (s : State) : Out State := impliedOp 0x5A nothing s

/-- `NOP base,X` (R239). -/
def execNopAbx5C (base : Word) (s : State) : Out State := addressOp 0x5C (.abx base) nothingAt s

/-- `NOP zp` (R239). -/
def execNopZp64 (zp : Byte) (s : State) : Out State := addressOp 0x64 (.zp zp) nothingAt s

/-- `NOP zp,X` (R239). -/
def execNopZpx74 (zp : Byte) (s : State) : Out State := addressOp 0x74 (.zpx zp) nothingAt s

/-- `NOP` (R239). -/
def execNop7A (s : State) : Out State := impliedOp 0x7A nothing s

/-- `NOP base,X` (R239). -/
def execNopAbx7C (base : Word) (s : State) : Out State := addressOp 0x7C (.abx base) nothingAt s

/-- `NOP #imm` (R239). -/
def execNopImm80 (_imm : Byte) (s : State) : Out State := impliedOp 0x80 nothing s

/-- `NOP #imm` (R239). -/
def execNopImm82 (_imm : Byte) (s : State) : Out State := impliedOp 0x82 nothing s

/-- `NOP #imm` (R239). -/
def execNopImm89 (_imm : Byte) (s : State) : Out State := impliedOp 0x89 nothing s

/-- `NOP #imm` (R239). -/
def execNopImmC2 (_imm : Byte) (s : State) : Out State := impliedOp 0xC2 nothing s

/-- `NOP zp,X` (R239). -/
def execNopZpxD4 (zp : Byte) (s : State) : Out State := addressOp 0xD4 (.zpx zp) nothingAt s

/-- `NOP` (R239). -/
def execNopDA (s : State) : Out State := impliedOp 0xDA nothing s

/-- `NOP base,X` (R239). -/
def execNopAbxDC (base : Word) (s : State) : Out State := addressOp 0xDC (.abx base) nothingAt s

/-- `NOP #imm` (R239). -/
def execNopImmE2 (_imm : Byte) (s : State) : Out State := impliedOp 0xE2 nothing s

/-- `NOP` (R216). -/
def execNopEA (s : State) : Out State := impliedOp 0xEA nothing s

/-- `NOP zp,X` (R239). -/
def execNopZpxF4 (zp : Byte) (s : State) : Out State := addressOp 0xF4 (.zpx zp) nothingAt s

/-- `NOP` (R239). -/
def execNopFA (s : State) : Out State := impliedOp 0xFA nothing s

/-- `NOP base,X` (R239). -/
def execNopAbxFC (base : Word) (s : State) : Out State := addressOp 0xFC (.abx base) nothingAt s

/-- `BRK` (R220). -/
def execBrk (s : State) : Out State := systemOp 0x00 softwareInterrupt s

/-- `RTI` (R221). -/
def execRti (s : State) : Out State := systemOp 0x40 trapReturn s

end Sys2Proof.Machine
end

