-- ==== Sys2Proof/Machine/Undocumented.lean ====
section
/-! DEFINITION. The named undocumented instructions (R230 to R240): compositions of two documented
handlers at one effective address, SAX and AAC. Their NOPs stand in System.lean, the SBC alias in
Arithmetic.lean. -/

namespace Sys2Proof.Machine

/-- AAC (R240): AND, then C from bit 7 of A. -/
def aacWith (m : Byte) (s : State) : State :=
  let s1 := andWith m s
  setFlag .c (s1.a.getLsbD 7) s1

/-! ### Instructions -/

/-- `LAX (zp,X)` (R231). -/
def execLaxIzx (zp : Byte) (s : State) : Out State := twoReadsOp 0xA3 (.izx zp) ldaWith ldxWith s

/-- `LAX zp` (R231). -/
def execLaxZp (zp : Byte) (s : State) : Out State := twoReadsOp 0xA7 (.zp zp) ldaWith ldxWith s

/-- `LAX addr` (R231). -/
def execLaxAbs (addr : Word) (s : State) : Out State :=
  twoReadsOp 0xAF (.abs addr) ldaWith ldxWith s

/-- `LAX (zp),Y` (R231). -/
def execLaxIzy (zp : Byte) (s : State) : Out State := twoReadsOp 0xB3 (.izy zp) ldaWith ldxWith s

/-- `LAX zp,Y` (R231). -/
def execLaxZpy (zp : Byte) (s : State) : Out State := twoReadsOp 0xB7 (.zpy zp) ldaWith ldxWith s

/-- `LAX base,Y` (R231). -/
def execLaxAby (base : Word) (s : State) : Out State :=
  twoReadsOp 0xBF (.aby base) ldaWith ldxWith s

/-- `SAX (zp,X)` (R232). -/
def execSaxIzx (zp : Byte) (s : State) : Out State :=
  storeOp 0x83 (.izx zp) (fun s => s.a &&& s.x) s

/-- `SAX zp` (R232). -/
def execSaxZp (zp : Byte) (s : State) : Out State := storeOp 0x87 (.zp zp) (fun s => s.a &&& s.x) s

/-- `SAX addr` (R232). -/
def execSaxAbs (addr : Word) (s : State) : Out State :=
  storeOp 0x8F (.abs addr) (fun s => s.a &&& s.x) s

/-- `SAX zp,Y` (R232). -/
def execSaxZpy (zp : Byte) (s : State) : Out State :=
  storeOp 0x97 (.zpy zp) (fun s => s.a &&& s.x) s

/-- `SLO (zp,X)` (R233). -/
def execSloIzx (zp : Byte) (s : State) : Out State :=
  combinedOp 0x03 (.izx zp) aslResult aslFlags oraWith s

/-- `SLO zp` (R233). -/
def execSloZp (zp : Byte) (s : State) : Out State :=
  combinedOp 0x07 (.zp zp) aslResult aslFlags oraWith s

/-- `SLO addr` (R233). -/
def execSloAbs (addr : Word) (s : State) : Out State :=
  combinedOp 0x0F (.abs addr) aslResult aslFlags oraWith s

/-- `SLO (zp),Y` (R233). -/
def execSloIzy (zp : Byte) (s : State) : Out State :=
  combinedOp 0x13 (.izy zp) aslResult aslFlags oraWith s

/-- `SLO zp,X` (R233). -/
def execSloZpx (zp : Byte) (s : State) : Out State :=
  combinedOp 0x17 (.zpx zp) aslResult aslFlags oraWith s

/-- `SLO base,Y` (R233). -/
def execSloAby (base : Word) (s : State) : Out State :=
  combinedOp 0x1B (.aby base) aslResult aslFlags oraWith s

/-- `SLO base,X` (R233). -/
def execSloAbx (base : Word) (s : State) : Out State :=
  combinedOp 0x1F (.abx base) aslResult aslFlags oraWith s

/-- `RLA (zp,X)` (R234). -/
def execRlaIzx (zp : Byte) (s : State) : Out State :=
  combinedOp 0x23 (.izx zp) rolResult rolFlags andWith s

/-- `RLA zp` (R234). -/
def execRlaZp (zp : Byte) (s : State) : Out State :=
  combinedOp 0x27 (.zp zp) rolResult rolFlags andWith s

/-- `RLA addr` (R234). -/
def execRlaAbs (addr : Word) (s : State) : Out State :=
  combinedOp 0x2F (.abs addr) rolResult rolFlags andWith s

/-- `RLA (zp),Y` (R234). -/
def execRlaIzy (zp : Byte) (s : State) : Out State :=
  combinedOp 0x33 (.izy zp) rolResult rolFlags andWith s

/-- `RLA zp,X` (R234). -/
def execRlaZpx (zp : Byte) (s : State) : Out State :=
  combinedOp 0x37 (.zpx zp) rolResult rolFlags andWith s

/-- `RLA base,Y` (R234). -/
def execRlaAby (base : Word) (s : State) : Out State :=
  combinedOp 0x3B (.aby base) rolResult rolFlags andWith s

/-- `RLA base,X` (R234). -/
def execRlaAbx (base : Word) (s : State) : Out State :=
  combinedOp 0x3F (.abx base) rolResult rolFlags andWith s

/-- `SRE (zp,X)` (R235). -/
def execSreIzx (zp : Byte) (s : State) : Out State :=
  combinedOp 0x43 (.izx zp) lsrResult lsrFlags eorWith s

/-- `SRE zp` (R235). -/
def execSreZp (zp : Byte) (s : State) : Out State :=
  combinedOp 0x47 (.zp zp) lsrResult lsrFlags eorWith s

/-- `SRE addr` (R235). -/
def execSreAbs (addr : Word) (s : State) : Out State :=
  combinedOp 0x4F (.abs addr) lsrResult lsrFlags eorWith s

/-- `SRE (zp),Y` (R235). -/
def execSreIzy (zp : Byte) (s : State) : Out State :=
  combinedOp 0x53 (.izy zp) lsrResult lsrFlags eorWith s

/-- `SRE zp,X` (R235). -/
def execSreZpx (zp : Byte) (s : State) : Out State :=
  combinedOp 0x57 (.zpx zp) lsrResult lsrFlags eorWith s

/-- `SRE base,Y` (R235). -/
def execSreAby (base : Word) (s : State) : Out State :=
  combinedOp 0x5B (.aby base) lsrResult lsrFlags eorWith s

/-- `SRE base,X` (R235). -/
def execSreAbx (base : Word) (s : State) : Out State :=
  combinedOp 0x5F (.abx base) lsrResult lsrFlags eorWith s

/-- `RRA (zp,X)` (R236). -/
def execRraIzx (zp : Byte) (s : State) : Out State :=
  combinedOp 0x63 (.izx zp) rorResult rorFlags adcWith s

/-- `RRA zp` (R236). -/
def execRraZp (zp : Byte) (s : State) : Out State :=
  combinedOp 0x67 (.zp zp) rorResult rorFlags adcWith s

/-- `RRA addr` (R236). -/
def execRraAbs (addr : Word) (s : State) : Out State :=
  combinedOp 0x6F (.abs addr) rorResult rorFlags adcWith s

/-- `RRA (zp),Y` (R236). -/
def execRraIzy (zp : Byte) (s : State) : Out State :=
  combinedOp 0x73 (.izy zp) rorResult rorFlags adcWith s

/-- `RRA zp,X` (R236). -/
def execRraZpx (zp : Byte) (s : State) : Out State :=
  combinedOp 0x77 (.zpx zp) rorResult rorFlags adcWith s

/-- `RRA base,Y` (R236). -/
def execRraAby (base : Word) (s : State) : Out State :=
  combinedOp 0x7B (.aby base) rorResult rorFlags adcWith s

/-- `RRA base,X` (R236). -/
def execRraAbx (base : Word) (s : State) : Out State :=
  combinedOp 0x7F (.abx base) rorResult rorFlags adcWith s

/-- `DCP (zp,X)` (R237). -/
def execDcpIzx (zp : Byte) (s : State) : Out State :=
  combinedOp 0xC3 (.izx zp) decResult resultFlags cmpWith s

/-- `DCP zp` (R237). -/
def execDcpZp (zp : Byte) (s : State) : Out State :=
  combinedOp 0xC7 (.zp zp) decResult resultFlags cmpWith s

/-- `DCP addr` (R237). -/
def execDcpAbs (addr : Word) (s : State) : Out State :=
  combinedOp 0xCF (.abs addr) decResult resultFlags cmpWith s

/-- `DCP (zp),Y` (R237). -/
def execDcpIzy (zp : Byte) (s : State) : Out State :=
  combinedOp 0xD3 (.izy zp) decResult resultFlags cmpWith s

/-- `DCP zp,X` (R237). -/
def execDcpZpx (zp : Byte) (s : State) : Out State :=
  combinedOp 0xD7 (.zpx zp) decResult resultFlags cmpWith s

/-- `DCP base,Y` (R237). -/
def execDcpAby (base : Word) (s : State) : Out State :=
  combinedOp 0xDB (.aby base) decResult resultFlags cmpWith s

/-- `DCP base,X` (R237). -/
def execDcpAbx (base : Word) (s : State) : Out State :=
  combinedOp 0xDF (.abx base) decResult resultFlags cmpWith s

/-- `ISB (zp,X)` (R238). -/
def execIsbIzx (zp : Byte) (s : State) : Out State :=
  combinedOp 0xE3 (.izx zp) incResult resultFlags sbcWith s

/-- `ISB zp` (R238). -/
def execIsbZp (zp : Byte) (s : State) : Out State :=
  combinedOp 0xE7 (.zp zp) incResult resultFlags sbcWith s

/-- `ISB addr` (R238). -/
def execIsbAbs (addr : Word) (s : State) : Out State :=
  combinedOp 0xEF (.abs addr) incResult resultFlags sbcWith s

/-- `ISB (zp),Y` (R238). -/
def execIsbIzy (zp : Byte) (s : State) : Out State :=
  combinedOp 0xF3 (.izy zp) incResult resultFlags sbcWith s

/-- `ISB zp,X` (R238). -/
def execIsbZpx (zp : Byte) (s : State) : Out State :=
  combinedOp 0xF7 (.zpx zp) incResult resultFlags sbcWith s

/-- `ISB base,Y` (R238). -/
def execIsbAby (base : Word) (s : State) : Out State :=
  combinedOp 0xFB (.aby base) incResult resultFlags sbcWith s

/-- `ISB base,X` (R238). -/
def execIsbAbx (base : Word) (s : State) : Out State :=
  combinedOp 0xFF (.abx base) incResult resultFlags sbcWith s

/-- `AAC #imm` (R240). -/
def execAacImm0B (imm : Byte) (s : State) : Out State := readOp 0x0B (.imm imm) aacWith s

/-- `AAC #imm` (R240). -/
def execAacImm2B (imm : Byte) (s : State) : Out State := readOp 0x2B (.imm imm) aacWith s

end Sys2Proof.Machine
end

