-- ==== Sys2Proof/Machine/Unnamed.lean ====
section
/-! DEFINITION. The unnamed undocumented instructions (R250 to R261): six execute when
ADMIT_UNNAMED_UNDOC is true, the others are refused whatever it is. -/

namespace Sys2Proof.Machine

/-! ### Handlers, given the operand byte -/

/-- ASR (R251): AND, then LSR on the accumulator. -/
def asrWith (m : Byte) (s : State) : State :=
  let s1 := andWith m s
  lsrFlags s1.a (lsrResult s1.a s1) (s1.setA (lsrResult s1.a s1))

/-- ARR (R252); the decimal flag has no effect. -/
def arrWith (m : Byte) (s : State) : State :=
  let r := rorResult (s.a &&& m) s
  setFlag .v (Bool.xor (r.getLsbD 6) (r.getLsbD 5)) (setFlag .c (r.getLsbD 6) (setNZ r (s.setA r)))

/-- AXS (R253). -/
def axsWith (m : Byte) (s : State) : State :=
  let t := s.a &&& s.x
  setNZ (t - m) ((setFlag .c (decide (m.toNat ≤ t.toNat)) s).setX (t - m))

/-- LAR (R254). -/
def larWith (m : Byte) (s : State) : State :=
  let v := m &&& s.sp
  setNZ v (((s.setA v).setX v).setSp v)

/-- ATX (R255), with MAGIC drawn afresh. -/
def atxWith (m : Byte) (s : State) : State :=
  let v := (s.a ||| Config.magic s.draws) &&& m
  setNZ v ((s.drawn.setA v).setX v)

/-- XAA (R256), with MAGIC drawn afresh. -/
def xaaWith (m : Byte) (s : State) : State :=
  let v := (s.a ||| Config.magic s.draws) &&& s.x &&& m
  setNZ v (s.drawn.setA v)

/-- An instruction that executes only where ADMIT_UNNAMED_UNDOC is true (R250). -/
def admittedOp (op : Byte) (src : Source) (handler : Byte → State → State) (s : State) :
    Out State :=
  if s.params.admitUnnamedUndoc then readOp op src handler s else refuse op s

/-! ### Instructions admitted by the parameter -/

/-- `ASR #imm` (R251). -/
def execAsr (imm : Byte) (s : State) : Out State := admittedOp 0x4B (.imm imm) asrWith s

/-- `ARR #imm` (R252). -/
def execArr (imm : Byte) (s : State) : Out State := admittedOp 0x6B (.imm imm) arrWith s

/-- `AXS #imm` (R253). -/
def execAxs (imm : Byte) (s : State) : Out State := admittedOp 0xCB (.imm imm) axsWith s

/-- `LAR base,Y` (R254). -/
def execLar (base : Word) (s : State) : Out State := admittedOp 0xBB (.mem (.aby base)) larWith s

/-- `ATX #imm` (R255). -/
def execAtx (imm : Byte) (s : State) : Out State := admittedOp 0xAB (.imm imm) atxWith s

/-- `XAA #imm` (R256). -/
def execXaa (imm : Byte) (s : State) : Out State := admittedOp 0x8B (.imm imm) xaaWith s

/-! ### Instructions always refused (R257 to R261) -/

/-- `AXA (zp),Y` (R257). -/
def execAxaIzy (_zp : Byte) (s : State) : Out State := refuse 0x93 s

/-- `AXA base,Y` (R257). -/
def execAxaAby (_base : Word) (s : State) : Out State := refuse 0x9F s

/-- `SXA base,Y` (R258). -/
def execSxa (_base : Word) (s : State) : Out State := refuse 0x9E s

/-- `SYA base,X` (R259). -/
def execSya (_base : Word) (s : State) : Out State := refuse 0x9C s

/-- `XAS base,Y` (R260). -/
def execXas (_base : Word) (s : State) : Out State := refuse 0x9B s

/-- `KIL` (R261). -/
def execKil02 (s : State) : Out State := refuse 0x02 s

/-- `KIL` (R261). -/
def execKil12 (s : State) : Out State := refuse 0x12 s

/-- `KIL` (R261). -/
def execKil22 (s : State) : Out State := refuse 0x22 s

/-- `KIL` (R261). -/
def execKil32 (s : State) : Out State := refuse 0x32 s

/-- `KIL` (R261). -/
def execKil42 (s : State) : Out State := refuse 0x42 s

/-- `KIL` (R261). -/
def execKil52 (s : State) : Out State := refuse 0x52 s

/-- `KIL` (R261). -/
def execKil62 (s : State) : Out State := refuse 0x62 s

/-- `KIL` (R261). -/
def execKil72 (s : State) : Out State := refuse 0x72 s

/-- `KIL` (R261). -/
def execKil92 (s : State) : Out State := refuse 0x92 s

/-- `KIL` (R261). -/
def execKilB2 (s : State) : Out State := refuse 0xB2 s

/-- `KIL` (R261). -/
def execKilD2 (s : State) : Out State := refuse 0xD2 s

/-- `KIL` (R261). -/
def execKilF2 (s : State) : Out State := refuse 0xF2 s

end Sys2Proof.Machine
end

