-- ==== Sys2Proof/Machine/Fetch.lean ====
section
/-! DEFINITION. Fetching an instruction: the opcode byte, then the operand bytes its mode reads
(R100, R103 to R114), with PC advanced as the rules say. -/

namespace Sys2Proof.Machine

/-- The opcode bytes that execute only where ADMIT_UNNAMED_UNDOC is true (R251 to R256). -/
def admissibleOpcodes : List Byte := [0x4B, 0x6B, 0xCB, 0xBB, 0xAB, 0x8B]

/-- The opcode bytes refused whatever the parameters (R257 to R261). -/
def neverAdmittedOpcodes : List Byte :=
  [0x93, 0x9F, 0x9E, 0x9C, 0x9B,
   0x02, 0x12, 0x22, 0x32, 0x42, 0x52, 0x62, 0x72, 0x92, 0xB2, 0xD2, 0xF2]

/-- "if e is refused" of R100 (R250). -/
def refusedOpcode (p : Params) (op : Byte) : Bool :=
  neverAdmittedOpcodes.contains op || (admissibleOpcodes.contains op && !p.admitUnnamedUndoc)

/-- The immediate NOPs, whose operand byte no handler reads (R104, R239). -/
def unreadImmediates : List Byte := [0x80, 0x82, 0x89, 0xC2, 0xE2]

/-- A byte looked at without a transaction, for the syntax of an operand that the machine never
reads; no meaning depends on it (log 15). -/
def peekByte (s : State) (addr : Word) : Byte := (ramByte s addr).getD unlistedByte

/-- An instruction whose operand bytes are not read: they are looked at. -/
def unreadInstr (op : Byte) (s : State) : Instr :=
  instrOf op (peekByte s s.pc) (peekByte s (s.pc + 1))

/-- The one operand byte of a memory mode: read, then PC advances (R105 to R107, R112 to R114). -/
def fetchOneByte (op : Byte) (s : State) : Out (Instr × State) :=
  andThen (memRead s.pc s) fun (b, s1) => .next (instrOf op b 0, s1.setPc (s1.pc + 1))

/-- The two operand bytes, low first: both read, then PC advances by 2 (R108 to R111). -/
def fetchTwoBytes (op : Byte) (s : State) : Out (Instr × State) :=
  andThen (memRead s.pc s) fun (lo, s1) =>
  andThen (memRead (s1.pc + 1) s1) fun (hi, s2) => .next (instrOf op lo hi, s2.setPc (s2.pc + 2))

/-- An immediate operand: PC advances over it (R104), then the handler's read of it, which
nothing comes between (log 14); a NOP makes none. -/
def fetchImmediate (op : Byte) (s : State) : Out (Instr × State) :=
  if unreadImmediates.contains op then .next (unreadInstr op s, s.setPc (s.pc + 1))
  else andThen (memRead s.pc (s.setPc (s.pc + 1))) fun (b, s1) => .next (instrOf op b 0, s1)

/-- The operand bytes of an opcode byte just fetched, PC being the address of the first. -/
def fetchOperand (op : Byte) (s : State) : Out (Instr × State) :=
  if refusedOpcode s.params op then .next (unreadInstr op s, s)
  else
    match (instrOf op 0 0).operand with
    | .implied | .accumulator => .next (instrOf op 0 0, s)
    | .immediate _ => fetchImmediate op s
    | .addressed m => if m.bytes.length = 1 then fetchOneByte op s else fetchTwoBytes op s

/-- The opcode fetch, PC + 1, and the operand bytes (R100). A refused opcode reads none (R250). -/
def fetch (s : State) : Out (Instr × State) :=
  andThen (memRead s.pc s) fun (op, s1) => fetchOperand op (s1.setPc (s1.pc + 1))

/-- The RAM cells of the three bytes from PC on, if all three lie in RAM in cells of their own. -/
def fetchCells (s : State) : Option (Nat × Nat × Nat) :=
  match cellOf s s.pc, cellOf s (s.pc + 1), cellOf s (s.pc + 2) with
  | some c0, some c1, some c2 =>
    if c0 ≠ c1 ∧ c0 ≠ c2 ∧ c1 ≠ c2 then some (c0, c1, c2) else none
  | _, _, _ => none

/-- Three bytes stored in three RAM cells. -/
def storeCells (s : State) (cells : Nat × Nat × Nat) (bytes : List Byte) : State :=
  s.setMem (((s.mem.write cells.1 (bytes.getD 0 0)).write cells.2.1 (bytes.getD 1 0)).write
    cells.2.2 (bytes.getD 2 0))

/-- Turns whose first `n` change no RAM. -/
def withoutChanges : Nat → List BusTurn → List BusTurn
  | 0, ts => ts
  | _, [] => []
  | n + 1, t :: ts => { t with changes := [] } :: withoutChanges n ts

/-- The machine ready to fetch at PC: running, booted, no host call at the next boundary, no change
of RAM by another chip during the fetch, and RAM at the three addresses from PC on, the mounts
being kept where they give that (log 26). -/
def readyToFetch (s : State) : State :=
  let s1 := ((((s.setStatus .running).setResetDone true).setPcLoaded true).setCalls
    (match s.calls with
     | [] => []
     | _ :: rest => [] :: rest)).setTurns (withoutChanges 3 s.turns)
  match fetchCells s1 with
  | some _ => s1
  | none => s1.setMounts [wholeRam]

/-- Instruction bytes placed where the next step fetches. -/
def placeBytes (bytes : List Byte) (s : State) : State :=
  let s1 := readyToFetch s
  match fetchCells s1 with
  | some cells => storeCells s1 cells bytes
  | none => s1

end Sys2Proof.Machine
end

