-- ==== Sys2Proof/Machine/Step.lean ====
section
/-! DEFINITION. One step of the machine (R100), after the host's calls at the boundary before it. -/

namespace Sys2Proof.Machine

/-- `Step()` (R100): fetch, execute, NMI check. -/
def stepCore (s : State) : Host.Outcome State Fault Refusal :=
  andThen (fetch s) fun (i, s1) =>
  andThen (exec i s1) fun s2 =>
  andThen (nmiCheck s2) checkCycleWidth

/-- A step of the machine: none from Faulted (R272); otherwise the host's calls at the boundary
(R280 b), then `Step()`, refused before Boot (R302). -/
def step (s : State) : Host.Outcome State Fault Refusal :=
  match s.status with
  | .faulted => .fault .alreadyFaulted
  | .running =>
    andThen (boundary s) fun s1 => if s1.booted then stepCore s1 else .refused .notBooted

/-- `s` with the instruction whose bits are `w`, as the opcode table numbers them, where the next
step fetches. -/
def State.withFetchWord (s : State) (nbits w : Nat) : State :=
  placeBytes (tableWordBytes nbits w) s

end Sys2Proof.Machine
end

