-- ==== Sys2Proof/Safety.lean ====
section
/-! DEFINITION. The terms claims use: mapped addresses, what a transaction leaves alone, frames,
the machine's invariant, and ways to compare runs. -/

namespace Sys2Proof.Machine

/-! ### What the bus answers -/

/-- A mount covers the address: an access to it does not raise BusFault (R56). -/
abbrev Mapped (s : State) (addr : Word) : Prop := (mountAt s addr).isSome = true

/-- Every address is covered by a mount: the environment R303 (a) asks for, whatever the program. -/
def FullyMapped (s : State) : Prop := ∀ addr : Word, Mapped s addr

/-- Both addresses lie in RAM and name different cells. -/
def DistinctCells (s : State) (a b : Word) : Prop :=
  (cellOf s a).isSome = true ∧ (cellOf s b).isSome = true ∧ cellOf s a ≠ cellOf s b

/-- The stack page is plain RAM: each of its 256 addresses names a cell of its own (R27). -/
def StackInRam (s : State) : Prop :=
  (∀ sp : Byte, (cellOf s (stackAddr s sp)).isSome = true) ∧
  ∀ sp sp' : Byte, cellOf s (stackAddr s sp) = cellOf s (stackAddr s sp') → sp = sp'

/-- A stretch of bytes stands in RAM from an address on, the address wrapping (R25, R80). -/
def CodeAt (s : State) (addr : Word) : List Byte → Prop
  | [] => True
  | b :: bs => ramByte s addr = some b ∧ CodeAt s (addr + 1) bs

/-! ### Frames -/

/-- The general registers (R22 to R24). -/
inductive Reg
  | a | x | y | sp
  deriving DecidableEq, Repr

/-- `x[r]` (R12). -/
def Reg.get : Reg → State → Byte
  | .a, s => s.a
  | .x, s => s.x
  | .y, s => s.y
  | .sp, s => s.sp

/-- Every general register but those listed is unchanged. -/
def RegsKept (changed : List Reg) (s t : State) : Prop := ∀ r, r ∉ changed → r.get t = r.get s

/-- Every bit of P but those listed is unchanged. -/
def FlagsKept (changed : List Flag) (s t : State) : Prop := ∀ f, f ∉ changed → flag f t = flag f s

/-- No other chip changes the byte in the coming transactions: no turn's change names its cell
(R61, last sentence). -/
def ChipsLeave (s : State) (addr : Word) : Prop :=
  ∀ turn ∈ s.turns, ∀ c ∈ turn.changes, cellOf s c.addr ≠ cellOf s addr

/-- Every byte of memory is unchanged but those stored to and those another chip changes: an address
that names another cell than each of the stored addresses, and than each coming change, reads as
before. -/
def StoredOnlyAt (stored : List Word) (s t : State) : Prop :=
  ∀ addr, (∀ e ∈ stored, cellOf s addr ≠ cellOf s e) → ChipsLeave s addr →
    ramByte t addr = ramByte s addr

/-- What no instruction changes: status, the boot record, the parameters, the mounts, the host's
coming calls and the choices of R284. -/
def EnvironmentKept (s t : State) : Prop :=
  t.status = s.status ∧ t.resetDone = s.resetDone ∧ t.pcLoaded = s.pcLoaded ∧
  t.params = s.params ∧ t.mounts = s.mounts ∧ t.calls = s.calls ∧ t.defers = s.defers

/-- The latch changes only by events of the transactions (R31): with none coming it is unchanged. -/
def LatchKept (s t : State) : Prop := s.turns = [] → t.nmi = s.nmi

/-- The frame of an instruction: the registers and flags it may change and the addresses it stores
to; everything else but PC, `cyc`, the turns consumed, the draws and the record of transactions
is unchanged. -/
def Frame (regs : List Reg) (flags : List Flag) (stored : List Word) (s t : State) : Prop :=
  RegsKept regs s t ∧ FlagsKept flags s t ∧ StoredOnlyAt stored s t ∧ EnvironmentKept s t ∧
  LatchKept s t

/-- N and Z as `setNZ(v)` leaves them (R13). -/
def ShowsNZ (v : Byte) (t : State) : Prop :=
  flag .n t = decide (128 ≤ v.toNat) ∧ flag .z t = decide (v = 0)

/-- A, C, V, N and Z after an addition to `a` of `m` and a carry of 0 or 1 (R130, R131). -/
def ShowsSum (a m : Byte) (c : Nat) (t : State) : Prop :=
  t.a.toNat = (a.toNat + m.toNat + c) % 256 ∧
  flag .c t = decide (255 < a.toNat + m.toNat + c) ∧
  flag .v t = (decide (128 ≤ a.toNat ↔ 128 ≤ m.toNat) &&
    decide ¬(128 ≤ t.a.toNat ↔ 128 ≤ a.toNat)) ∧
  ShowsNZ t.a t

/-- A, C, V, N and Z after a subtraction from `a` of `m` and of 1 less the carry (R130, R132). -/
def ShowsDifference (a m : Byte) (c : Nat) (t : State) : Prop :=
  (t.a.toNat : Int) = ((a.toNat : Int) - m.toNat - (1 - c)) % 256 ∧
  flag .c t = decide ((0 : Int) ≤ (a.toNat : Int) - m.toNat - (1 - c)) ∧
  flag .v t = (decide ¬(128 ≤ a.toNat ↔ 128 ≤ m.toNat) &&
    decide (128 ≤ t.a.toNat ↔ 128 ≤ m.toNat)) ∧
  ShowsNZ t.a t

/-- C, N and Z after a compare of `r` with `m` (R150). -/
def ShowsCompare (r m : Byte) (t : State) : Prop :=
  flag .c t = decide (m.toNat ≤ r.toNat) ∧ ShowsNZ (r - m) t

/-- A transaction touches nothing of the core but the latch, and of the environment only RAM, the
turns, the draws and the record (R53, last sentence); `cyc` stands too. -/
def Quiet (s t : State) : Prop :=
  t.a = s.a ∧ t.x = s.x ∧ t.y = s.y ∧ t.sp = s.sp ∧ t.p = s.p ∧ t.pc = s.pc ∧ t.cyc = s.cyc ∧
  EnvironmentKept s t

/-! ### The opcode table as claims read it: views of the syntax and the rules' own tables -/

/-- The operand of a reading instruction. -/
def operandSource : Operand → Option Source
  | .immediate b => some (.imm b)
  | .addressed m => some (.mem m)
  | .implied | .accumulator => none

/-- The addressing mode of an addressed operand. -/
def operandMode : Operand → Option AddrMode
  | .addressed m => some m
  | .implied | .accumulator | .immediate _ => none

/-- The byte a store writes (R168 to R170, R232). -/
def storedByte : Mnemonic → State → Option Byte
  | .sta, s => some s.a
  | .stx, s => some s.x
  | .sty, s => some s.y
  | .sax, s => some (s.a &&& s.x)
  | _, _ => none

/-- The register a load writes (R165 to R167). -/
def loadedReg : Mnemonic → Option Reg
  | .lda => some .a
  | .ldx => some .x
  | .ldy => some .y
  | _ => none

/-- The register a compare reads (R151 to R153). -/
def comparedReg : Mnemonic → Option Reg
  | .cmp => some .a
  | .cpx => some .x
  | .cpy => some .y
  | _ => none

/-- The result of AND, ORA, EOR (R133 to R135). -/
def logicResult : Mnemonic → Byte → Byte → Option Byte
  | .and, a, m => some (a &&& m)
  | .ora, a, m => some (a ||| m)
  | .eor, a, m => some (a ^^^ m)
  | _, _, _ => none

/-- The result of a shift as a number, from the operand and the carry (R141 to R144). -/
def shiftedNat : Mnemonic → Nat → Nat → Option Nat
  | .asl, v, _ => some (v * 2 % 256)
  | .lsr, v, _ => some (v / 2)
  | .rol, v, c => some (v * 2 % 256 + c)
  | .ror, v, c => some (v / 2 + c * 128)
  | _, _, _ => none

/-- The bit a shift moves off (R141 to R144). -/
def shiftedOff : Mnemonic → Nat → Option Bool
  | .asl, v | .rol, v => some (decide (128 ≤ v))
  | .lsr, v | .ror, v => some (decide (v % 2 = 1))
  | _, _ => none

/-- The register an implied move writes with N and Z, and its new value as a number (R156 to R159,
R171 to R175). -/
def movedReg : Mnemonic → State → Option (Reg × Nat)
  | .inx, s => some (.x, (s.x.toNat + 1) % 256)
  | .iny, s => some (.y, (s.y.toNat + 1) % 256)
  | .dex, s => some (.x, (s.x.toNat + 255) % 256)
  | .dey, s => some (.y, (s.y.toNat + 255) % 256)
  | .tax, s => some (.x, s.a.toNat)
  | .tay, s => some (.y, s.a.toNat)
  | .txa, s => some (.a, s.x.toNat)
  | .tya, s => some (.a, s.y.toNat)
  | .tsx, s => some (.x, s.sp.toNat)
  | _, _ => none

/-- The flag a flag instruction writes, and its value (R209 to R215). -/
def writtenFlag : Mnemonic → Option (Flag × Bool)
  | .clc => some (.c, false)
  | .sec => some (.c, true)
  | .cli => some (.i, false)
  | .sei => some (.i, true)
  | .clv => some (.v, false)
  | .cld => some (.d, false)
  | .sed => some (.d, true)
  | _ => none

/-- The flag a branch tests, and the value on which it is taken (R186 to R193). -/
def branchTest : Mnemonic → Option (Flag × Bool)
  | .bcc => some (.c, false)
  | .bcs => some (.c, true)
  | .beq => some (.z, true)
  | .bmi => some (.n, true)
  | .bne => some (.z, false)
  | .bpl => some (.n, false)
  | .bvc => some (.v, false)
  | .bvs => some (.v, true)
  | _ => none

/-- The general registers an instruction writes (R22 to R24; the unnamed ones R251 to R256). -/
def writtenRegs : Mnemonic → List Reg
  | .adc | .sbc | .and | .ora | .eor | .lda | .txa | .tya | .slo | .rla | .sre | .rra | .isb
  | .aac | .asr | .arr | .xaa => [.a]
  | .asl | .lsr | .rol | .ror => [.a]
  | .pla => [.a, .sp]
  | .lax | .atx => [.a, .x]
  | .ldx | .tax | .tsx | .inx | .dex | .axs => [.x]
  | .ldy | .tay | .iny | .dey => [.y]
  | .txs | .pha | .php | .plp | .jsr | .rts | .brk | .rti => [.sp]
  | .lar => [.a, .x, .sp]
  | .bit | .cmp | .cpx | .cpy | .sta | .stx | .sty | .sax | .inc | .dec | .dcp | .nop | .jmp
  | .bcc | .bcs | .beq | .bmi | .bne | .bpl | .bvc | .bvs
  | .clc | .sec | .cli | .sei | .clv | .cld | .sed
  | .axa | .sxa | .sya | .xas | .kil => []

/-- The bits of P an instruction writes: the table of R29 (the unnamed ones R251 to R256). -/
def writtenFlags : Mnemonic → List Flag
  | .adc | .sbc | .rra | .isb | .arr => [.c, .z, .v, .n]
  | .asl | .lsr | .rol | .ror | .cmp | .cpx | .cpy | .slo | .rla | .sre | .dcp | .aac | .asr
  | .axs => [.c, .z, .n]
  | .bit => [.z, .v, .n]
  | .and | .ora | .eor | .inc | .dec | .inx | .iny | .dex | .dey | .lda | .ldx | .ldy
  | .tax | .tay | .txa | .tya | .tsx | .pla | .lax | .lar | .atx | .xaa => [.z, .n]
  | .clc | .sec => [.c]
  | .cli | .sei | .brk => [.i]
  | .clv => [.v]
  | .cld | .sed => [.d]
  | .plp | .rti => [.c, .z, .i, .d, .b, .u, .v, .n]
  | .sta | .stx | .sty | .txs | .pha | .php | .jmp | .jsr | .rts | .nop | .sax
  | .bcc | .bcs | .beq | .bmi | .bne | .bpl | .bvc | .bvs
  | .axa | .sxa | .sya | .xas | .kil => []

/-- The instructions some form of which writes the bus. -/
def writesBus : Mnemonic → Bool
  | .sta | .stx | .sty | .sax | .asl | .lsr | .rol | .ror | .inc | .dec | .slo | .rla | .sre
  | .rra | .dcp | .isb | .pha | .php | .jsr | .brk => true
  | _ => false

/-- The instructions that push or pull all of P, so that the D or I bit moves through them, and
those that write the bit. -/
def movesStatus : Mnemonic → Bool
  | .php | .plp | .brk | .rti => true
  | _ => false

/-- The instructions that read or write the cell at an effective address; the others with an
addressed operand use the address alone (R101, R239). -/
def accessesOperand : Mnemonic → Bool
  | .nop | .jmp | .jsr | .bcc | .bcs | .beq | .bmi | .bne | .bpl | .bvc | .bvs => false
  | _ => true

/-- The bytes an instruction pushes, in order (R195, R205, R207, R220). -/
def pushedBytes : Mnemonic → State → List Byte
  | .pha, s => [s.a]
  | .php, s => [s.p ||| 0x30]
  | .jsr, s => [highByte (s.pc - 1), lowByte (s.pc - 1)]
  | .brk, s => [highByte (s.pc + 1), lowByte (s.pc + 1), s.p ||| 0x30]
  | _, _ => []

/-- How many bytes an instruction pulls (R196, R206, R208, R221). -/
def pulledCount : Mnemonic → Nat
  | .pla | .plp => 1
  | .rts => 2
  | .rti => 3
  | _ => 0

/-- The bytes the fetch of an instruction reads, in order: all of them, but for the operand of an
immediate NOP (R104, R239). -/
def fetchReads (i : Instr) (pc : Word) : List Word :=
  if unreadImmediates.contains i.opcode then [pc]
  else (List.range i.length).map fun k => pc + BitVec.ofNat 16 k

/-! ### The machine's invariant -/

/-- Bit 5 is 1 and bit 4 is 0, as in every P that PLP and RTI restore (R28). -/
def statusBitsFixed (p : Byte) : Bool := p.getLsbD 5 && !p.getLsbD 4

/-- The invariant: RAM in canonical form, mounts that do not overlap (R60 a), the two bits of P
without storage as R28 says, RESET_FLAGS too, and the machine Running and booted. -/
def State.Inv (s : State) : Prop :=
  s.mem.wf = true ∧ mountsWf s.mounts = true ∧ statusBitsFixed s.p = true ∧
  statusBitsFixed s.params.resetFlags = true ∧ s.status = .running ∧ s.booted = true

/-- A request is never stamped later than now: false only across a Reset() (R305). -/
def StampNotAhead (s : State) : Prop := s.nmi.pending = true → s.nmi.raisedAt ≤ s.cyc

/-- Every opcode byte that executes has a base cost of at least 2 (R92, R283). -/
def BaseCostsAtLeastTwo (p : Params) : Prop :=
  ∀ op : Byte, refusedOpcode p op = false → 2 ≤ baseCycles p op

/-! ### Comparing runs -/

/-- An outcome with its state changed, the one a fault or a refusal reports too. -/
def mapOutcome (f : State → State) : Host.Outcome State Fault Refusal →
    Host.Outcome State Fault Refusal
  | .next s => .next (f s)
  | .fault (.busFault addr final) => .fault (.busFault addr (f final))
  | .fault .alreadyFaulted => .fault .alreadyFaulted
  | .refused (.unnamedUndocumented op point) => .refused (.unnamedUndocumented op (f point))
  | .refused r => .refused r

/-- A state without its time: `cyc` and the latch's stamp are forgotten. -/
def timeless (s : State) : State := (s.setCyc 0).setNmi { s.nmi with raisedAt := 0 }

/-- The writes that push a list of bytes, the first at the stack address of `sp` (R27). -/
def pushWrites (s : State) (sp : Byte) : List Byte → List BusOp
  | [] => []
  | v :: vs => .wr (stackAddr s sp) v :: pushWrites s (sp - 1) vs

/-- The reads that pull a number of bytes, the first at the stack address of `sp` (R27). -/
def pullReads (s : State) (sp : Byte) : Nat → List BusOp
  | 0 => []
  | n + 1 => .rd (stackAddr s sp) :: pullReads s (sp + 1) n

/-- Pushing a list of bytes, first to last. -/
def pushAll : List Byte → State → Out State
  | [], s => .next s
  | v :: vs, s => andThen (push8 v s) fun s1 => pushAll vs s1

/-- Pulling a number of bytes, in the order pulled. -/
def pullMany : Nat → State → Out (List Byte × State)
  | 0, s => .next ([], s)
  | n + 1, s =>
    andThen (pull8 s) fun (v, s1) =>
    andThen (pullMany n s1) fun (vs, s2) => .next (v :: vs, s2)

/-- Making the transactions of a list in order, with the bytes its reads answer, in order. -/
def transact : List BusOp → State → Out (List Byte × State)
  | [], s => .next ([], s)
  | .rd addr :: ops, s =>
    andThen (memRead addr s) fun (v, s1) =>
    andThen (transact ops s1) fun (vs, s2) => .next (v :: vs, s2)
  | .wr addr v :: ops, s => andThen (memWrite addr v s) fun s1 => transact ops s1

end Sys2Proof.Machine
end

