-- ==== Sys2Proof/Certificates/Slice0/Obligations.lean ====
section
/-! DEFINITION. The statements for the provers, each from a numbered rule of spec/ or derived from
the sections it names (OBLIGATIONS.json). -/

open Sys2Proof Sys2Proof.Machine

/-! ### Encoding -/

/-- R80, R81: decoding the bytes of an instruction gives it back, with the bytes after them. -/
def Obligations.DecodeOfEncode : Prop :=
  ∀ (i : Instr) (rest : List Byte), i.wellFormed = true → decode (encode i ++ rest) = .ok (i, rest)

/-- R83: no two instructions share bytes; what a decoded instruction encodes to is what was read. -/
def Obligations.EncodeOfDecode : Prop :=
  ∀ (bytes rest : List Byte) (i : Instr), decode bytes = .ok (i, rest) → encode i ++ rest = bytes

/-- R80: every opcode byte decodes, and it alone fixes the mnemonic and the length. -/
def Obligations.OpcodeByteSelectsEntry : Prop :=
  ∀ op : Byte, ∃ (mn : Mnemonic) (len : Nat), ∀ (b1 b2 : Byte), ∃ (i : Instr) (rest : List Byte),
    decode [op, b1, b2] = .ok (i, rest) ∧ i.opcode = op ∧ i.mnemonic = mn ∧ i.length = len

/-- R54 (a), R84: words written out from the encodings. -/
def Obligations.SampleWordsDecode : Prop :=
  decode [0x4C, 0xEF, 0xBE] = .ok (.jmpAbs 0xBEEF, []) ∧
  decode [0b01101001, 0x01] = .ok (.adcImm 0x01, []) ∧
  decode [0b10110001, 0x86, 0xFF] = .ok (.ldaIzy 0x86, [0xFF]) ∧
  decode [0b00011110, 0x34, 0x12] = .ok (.aslAbx 0x1234, []) ∧
  decode [0b11010000, 0xFA] = .ok (.bne 0xFA, []) ∧
  decode [0b00000000, 0xFF] = .ok (.brk, [0xFF])

/-! ### Fetch and step -/

/-- R100: where the reads of the fetch answer the bytes of an instruction that executes, the step is
that instruction's execution after exactly those reads, with PC past the instruction, followed by
the NMI check; and in RAM that no other chip changes meanwhile the reads answer the bytes that
stand there. -/
def Obligations.StepRunsDecodedInstruction : Prop :=
  ∀ (s s0 : State) (bytes : List Byte) (i : Instr),
    s.status = .running → boundary s = .next s0 → s0.booted = true →
    decode bytes = .ok (i, []) → refusedOpcode s0.params i.opcode = false →
    (∀ s1, transact ((fetchReads i s0.pc).map .rd) s0 =
        .next (bytes.take (fetchReads i s0.pc).length, s1) →
      step s = andThen (exec i (s1.setPc (s0.pc + BitVec.ofNat 16 i.length)))
        (fun t => andThen (nmiCheck t) checkCycleWidth)) ∧
    (CodeAt s0 s0.pc bytes → (∀ addr ∈ fetchReads i s0.pc, ChipsLeave s0 addr) →
      ∃ s1, transact ((fetchReads i s0.pc).map .rd) s0 =
        .next (bytes.take (fetchReads i s0.pc).length, s1))

/-- R250: a refused opcode stops the step right after its fetch and the PC increment, before any
operand byte is read. -/
def Obligations.RefusedOpcodeStopsBeforeOperands : Prop :=
  ∀ (s s0 s1 : State) (op : Byte),
    s.status = .running → boundary s = .next s0 → s0.booted = true →
    memRead s0.pc s0 = .next (op, s1) → refusedOpcode s0.params op = true →
    step s = .refused (.unnamedUndocumented op (s1.setPc (s0.pc + 1)))

/-- R250, R257 to R261: these instructions are refused in every state, and without
ADMIT_UNNAMED_UNDOC the other unnamed ones too. -/
def Obligations.UnnamedInstructionsRefused : Prop :=
  ∀ (i : Instr) (s : State),
    (i.mnemonic ∈ [Mnemonic.axa, .sxa, .sya, .xas, .kil] →
      exec i s = .refused (.unnamedUndocumented i.opcode s)) ∧
    (i.mnemonic ∈ [Mnemonic.asr, .arr, .axs, .lar, .atx, .xaa] →
      s.params.admitUnnamedUndoc = false → exec i s = .refused (.unnamedUndocumented i.opcode s))

/-- R271: on a fully mapped bus every instruction that is not refused completes, and it charges at
least its base cost. -/
def Obligations.EveryExecutedInstructionCompletes : Prop :=
  ∀ (i : Instr) (s : State), FullyMapped s → refusedOpcode s.params i.opcode = false →
    ∃ t, exec i s = .next t ∧ EnvironmentKept s t ∧
      s.cyc + baseCycles s.params i.opcode ≤ t.cyc

/-- R272, R302: a Faulted machine has no further step and is not booted again; a machine without a
Reset() and a PC load refuses `Step()`. -/
def Obligations.MachinesWithoutAStep : Prop :=
  (∀ s : State, s.status = .faulted →
    step s = .fault .alreadyFaulted ∧ boot s = .fault .alreadyFaulted) ∧
  ∀ s s0 : State, s.status = .running → boundary s = .next s0 → s0.booted = false →
    step s = .refused .notBooted

/-! ### Invariants -/

/-- The invariant holds right after reset. -/
def Obligations.ResetMeetsInvariant : Prop := State.reset.Inv

/-- Every step keeps the invariant: RAM canonical, mounts disjoint, bits 4 and 5 of P as R28 says,
Running and booted; the host's calls at the boundary included. -/
def Obligations.StepKeepsInvariant : Prop :=
  ∀ s t : State, s.Inv → step s = .next t → t.Inv

/-- R21, R30, R60 (c): a step changes no parameter and removes no mount, and from the host's calls
before it on, which alone can reset it, the cycle counter does not decrease. -/
def Obligations.StepIsMonotone : Prop :=
  ∀ s t : State, step s = .next t →
    t.params = s.params ∧ (∃ added, t.mounts = s.mounts ++ added) ∧
    ∀ s0, boundary s = .next s0 → s0.cyc ≤ t.cyc

/-- R283 (c): with the formula of R281 and base costs of at least 2, which the default table has, no
request is ever left pending at the end of a step, whenever it arrived. -/
def Obligations.LatchIdleAfterEveryStep : Prop :=
  BaseCostsAtLeastTwo Params.default ∧
  ∀ s s0 t : State, boundary s = .next s0 → s0.params.nmiLatency = .formula →
    BaseCostsAtLeastTwo s0.params → StampNotAhead s0 → step s = .next t → t.nmi.pending = false

/-- R29, R22 to R24: a bit of P, and a register, changes only in the instructions that the table of
R29 and the registers' rules name for it. -/
def Obligations.FlagsAndRegistersChangeOnlyByTheirWriters : Prop :=
  ∀ (i : Instr) (s t : State), exec i s = .next t →
    FlagsKept (writtenFlags i.mnemonic) s t ∧ RegsKept (writtenRegs i.mnemonic) s t

/-- R58: an instruction that writes no bus cell leaves every byte of memory alone, and no
instruction changes the rest of the environment. -/
def Obligations.OnlyStoresChangeMemory : Prop :=
  ∀ (i : Instr) (s t : State), exec i s = .next t →
    EnvironmentKept s t ∧ LatchKept s t ∧ (writesBus i.mnemonic = false → StoredOnlyAt [] s t)

/-- R88: no instruction's result depends on the cycle counter. -/
def Obligations.InstructionsDoNotReadTime : Prop :=
  ∀ (i : Instr) (s : State) (c : Nat),
    mapOutcome timeless (exec i (s.setCyc c)) = mapOutcome timeless (exec i s)

/-- R130, R289: the decimal flag and the interrupt-disable flag change nothing but themselves in
every instruction that neither writes them nor pushes or pulls P, and the NMI check does not
consult the latter. -/
def Obligations.DecimalAndInterruptFlagsAreInert : Prop :=
  (∀ (f : Flag) (i : Instr) (s : State) (b : Bool), (f = .d ∨ f = .i) →
    movesStatus i.mnemonic = false →
    writtenFlag i.mnemonic ≠ some (f, false) → writtenFlag i.mnemonic ≠ some (f, true) →
    exec i (setFlag f b s) = mapOutcome (setFlag f b) (exec i s)) ∧
  ∀ (s : State) (b : Bool), nmiDue (setFlag .i b s) = nmiDue s

/-! ### The bus, the resolver and the stack -/

/-- R56, R271, R272: an access no mount covers is a BusFault with the state as it stood, Faulted,
and an instruction faults only at such an address. -/
def Obligations.UnmappedAccessesFault : Prop :=
  (∀ (s : State) (addr : Word) (v : Byte), mountAt s addr = none →
    memRead addr s = .fault (.busFault addr { s with status := .faulted }) ∧
    memWrite addr v s = .fault (.busFault addr { s with status := .faulted })) ∧
  ∀ (i : Instr) (s : State) (r : Fault), exec i s = .fault r →
    ∃ addr final, r = .busFault addr final ∧ mountAt s addr = none ∧ final.status = .faulted ∧
      final.mounts = s.mounts ∧ final.params = s.params

/-- R52, R61 (c) and its last sentence: a read of a RAM address answers the byte of its cell; RAM in
canonical form reads as the last byte written to the cell, by the core or, in a transaction's
callback, by another chip; and a write leaves every other cell alone. That a chip's change stands in
the queue of turns, and lands after the transaction's own effect, is the model's choice (log 3). -/
def Obligations.RamReadsLastWrite : Prop :=
  ∀ (s : State) (addr : Word), s.mem.wf = true →
    (∀ b, ramByte s addr = some b → ∃ t, memRead addr s = .next (b, t)) ∧
    (∀ v t, memWrite addr v s = .next t →
      t.mem.wf = true ∧ Quiet s t ∧ StoredOnlyAt [addr] s t ∧
      ((cellOf s addr).isSome = true →
        ∀ other, cellOf s other = cellOf s addr → ChipsLeave s other →
          ∃ u, memRead other t = .next (v, u))) ∧
    ∀ (t : State) (turn : BusTurn) (turns : List BusTurn) (earlier later : List CellChange)
        (c : CellChange) (other : Word),
      ((∃ v, memRead addr s = .next (v, t)) ∨ ∃ v, memWrite addr v s = .next t) →
      s.turns = turn :: turns → turn.changes = earlier ++ c :: later →
      (∀ c' ∈ later, cellOf s c'.addr ≠ cellOf s c.addr) → (cellOf s c.addr).isSome = true →
      cellOf s other = cellOf s c.addr → ∃ u, memRead other t = .next (c.byte, u)

/-- R278, R279, R53: the events that arrive during a transaction, a read or a write, reach the latch
with the cycle count of that moment, whichever NMI_RERAISE says, in their order; with none the latch
stands. That the events stand in a queue of State, one turn for each transaction, is the model's
choice (log 5); the bit `examined` is that of R284. -/
def Obligations.TransactionDeliversEvents : Prop :=
  ∀ (s t : State) (addr : Word) (b : Byte) (cs : List CellChange) (rest : List BusTurn),
    ((∃ v, memRead addr s = .next (v, t)) ∨ ∃ v, memWrite addr v s = .next t) →
    (s.turns = [] → t.nmi = s.nmi ∧ t.turns = []) ∧
    (∀ es, s.turns = { byte := b, events := es, changes := cs } :: rest → t.turns = rest) ∧
    (s.turns = { byte := b, events := [], changes := cs } :: rest → t.nmi = s.nmi) ∧
    (s.turns = { byte := b, events := [.interrupt], changes := cs } :: rest →
      (s.nmi.pending = false →
        t.nmi = { pending := true, raisedAt := s.cyc, examined := false }) ∧
      (s.nmi.pending = true → s.params.nmiReraise = .keep → t.nmi = s.nmi) ∧
      (s.nmi.pending = true → s.params.nmiReraise = .overwrite →
        t.nmi = { s.nmi with raisedAt := s.cyc })) ∧
    (s.turns = { byte := b, events := [.cancel], changes := cs } :: rest →
      t.nmi = { s.nmi with pending := false }) ∧
    (∀ es, s.turns = { byte := b, events := es ++ [.cancel], changes := cs } :: rest →
      t.nmi.pending = false) ∧
    ∀ es, s.turns = { byte := b, events := es ++ [.cancel, .interrupt], changes := cs } :: rest →
      t.nmi = { pending := true, raisedAt := s.cyc, examined := false }

/-- R280 (b), R300, R301, R60 (d), R274, R61: the host's calls at a step boundary, the first of them
and then the others: an event reaches the latch with the cycle count of that moment; `Reset()`,
`Boot()` and a load of PC act as they do alone, a fault of Boot ending the step; a mount that meets
no other is appended, and one that shares an address with another is rejected, the bus keeping what
it had; a byte of RAM that another chip changed is changed. That the calls are queued in State is the
model's choice (log 6), that the host's load of PC is recorded (log 22) and that a chip's change is a
call (log 3) too. -/
def Obligations.HostCallsAtTheBoundary : Prop :=
  (∀ s : State, s.calls = [] → boundary s = .next s) ∧
  (∀ (s : State) (rest : List (List HostCall)), s.calls = [] :: rest →
    boundary s = .next { s with calls := rest }) ∧
  ∀ (s : State) (cs : List HostCall) (rest : List (List HostCall)),
    (s.calls = (.event .interrupt :: cs) :: rest →
      (s.nmi.pending = false → boundary s = boundary { s with
        calls := cs :: rest, nmi := { pending := true, raisedAt := s.cyc, examined := false } }) ∧
      (s.nmi.pending = true → s.params.nmiReraise = .keep →
        boundary s = boundary { s with calls := cs :: rest }) ∧
      (s.nmi.pending = true → s.params.nmiReraise = .overwrite → boundary s = boundary { s with
        calls := cs :: rest, nmi := { s.nmi with raisedAt := s.cyc } })) ∧
    (s.calls = (.event .cancel :: cs) :: rest → boundary s = boundary { s with
      calls := cs :: rest, nmi := { s.nmi with pending := false } }) ∧
    (s.calls = (.reset :: cs) :: rest →
      boundary s = boundary { resetCore s with calls := cs :: rest }) ∧
    (∀ target, s.calls = (.loadPc target :: cs) :: rest → boundary s = boundary { s with
      calls := cs :: rest, pc := target, pcLoaded := true }) ∧
    (s.calls = (.boot :: cs) :: rest →
      (∀ u, boot { s with calls := rest } = .next u →
        boundary s = boundary { u with calls := cs :: rest }) ∧
      (∀ r, boot { s with calls := rest } = .fault r →
        boundary s = .fault r ∧ (s.status = .running → step s = .fault r))) ∧
    (∀ m : Mount, s.calls = (.mount m :: cs) :: rest → m.first ≤ m.last →
      (∀ m' ∈ s.mounts, m'.first ≤ m'.last) →
      ((∀ m' ∈ s.mounts, ∀ addr, ¬(mountCovers m addr = true ∧ mountCovers m' addr = true)) →
        boundary s = boundary { s with calls := cs :: rest, mounts := s.mounts ++ [m] }) ∧
      ((∃ m' ∈ s.mounts, ∃ addr, mountCovers m addr = true ∧ mountCovers m' addr = true) →
        boundary s = boundary { s with calls := cs :: rest })) ∧
    ∀ c : CellChange, s.calls = (.change c :: cs) :: rest → s.mem.wf = true →
      (∀ cell, cellOf s c.addr = some cell → ∃ m : Memory, m.wf = true ∧
        (∀ k, m.read k = if k = cell then c.byte else s.mem.read k) ∧
        boundary s = boundary { s with calls := cs :: rest, mem := m }) ∧
      (cellOf s c.addr = none → boundary s = boundary { s with calls := cs :: rest })

/-- R105 to R110, R114: the effective address and surcharge of the modes without a pointer. -/
def Obligations.ModesWithoutPointerResolve : Prop :=
  ∀ (s : State) (z : Byte) (base : Word),
    (∃ ea, resolve (.zp z) s = .next (ea, s) ∧ ea.toNat = z.toNat) ∧
    (∃ ea, resolve (.zpx z) s = .next (ea, { s with cyc := s.cyc + 1 }) ∧
      ea.toNat = (z.toNat + s.x.toNat) % 256) ∧
    (∃ ea, resolve (.zpy z) s = .next (ea, { s with cyc := s.cyc + 1 }) ∧
      ea.toNat = (z.toNat + s.y.toNat) % 256) ∧
    resolve (.abs base) s = .next (base, s) ∧
    (∃ ea : Word, ea.toNat = (base.toNat + s.x.toNat) % 65536 ∧
      resolve (.abx base) s = .next (ea, { s with
        cyc := s.cyc + if ea.toNat / 256 = base.toNat / 256 then 0 else 1 })) ∧
    (∃ ea : Word, ea.toNat = (base.toNat + s.y.toNat) % 65536 ∧
      resolve (.aby base) s = .next (ea, { s with
        cyc := s.cyc + if ea.toNat / 256 = base.toNat / 256 then 0 else 1 })) ∧
    (∃ target : Word, resolve (.rel z) s = .next (target, s) ∧
      (target.toNat : Int) = ((s.pc.toNat : Int) + z.toInt) % 65536)

/-- R111: the Indirect mode takes the pointer's high byte from the same page; a pointer byte no mount
covers faults (R102). -/
def Obligations.IndirectModeWrapsInPage : Prop :=
  ∀ (s : State) (ptr second : Word),
    second.toNat = ptr.toNat / 256 * 256 + (ptr.toNat + 1) % 256 →
    (Mapped s ptr → Mapped s second →
      ∃ lo hi ea s1, transact [.rd ptr, .rd second] s = .next ([lo, hi], s1) ∧
        resolve (.ind ptr) s = .next (ea, s1) ∧ ea.toNat = hi.toNat * 256 + lo.toNat ∧
        (∀ b : Byte, ramByte s ptr = some b → lo = b) ∧
        (ChipsLeave s second → ∀ b : Byte, ramByte s second = some b → hi = b) ∧
        s1.trace = .rd second :: .rd ptr :: s.trace ∧ s1.cyc = s.cyc ∧
        Frame [] [] [] s s1 ∧ s1.pc = s.pc) ∧
    (mountAt s ptr = none →
      resolve (.ind ptr) s = .fault (.busFault ptr { s with status := .faulted })) ∧
    ∀ lo s1, memRead ptr s = .next (lo, s1) → mountAt s second = none →
      resolve (.ind ptr) s = .fault (.busFault second { s1 with status := .faulted })

/-- R112, R113: (zp,X) adds X to the pointer's address inside page zero and always charges 1; (zp),Y
adds Y to the pointer's value and charges a page crossing; a pointer byte no mount covers faults
before the charge (R102). -/
def Obligations.ZeroPagePointerModesResolve : Prop :=
  ∀ (s : State) (z : Byte) (p0 p1 : Word),
    (p0.toNat = (z.toNat + s.x.toNat) % 256 → p1.toNat = (z.toNat + s.x.toNat + 1) % 256 →
      (Mapped s p0 → Mapped s p1 →
        ∃ lo hi ea u, transact [.rd p0, .rd p1] s = .next ([lo, hi], u) ∧
          resolve (.izx z) s = .next (ea, { u with cyc := s.cyc + 1 }) ∧
          ea.toNat = hi.toNat * 256 + lo.toNat ∧
          (∀ b : Byte, ramByte s p0 = some b → lo = b) ∧
          (ChipsLeave s p1 → ∀ b : Byte, ramByte s p1 = some b → hi = b) ∧
          u.trace = .rd p1 :: .rd p0 :: s.trace ∧ Frame [] [] [] s u ∧ u.pc = s.pc) ∧
      (mountAt s p0 = none →
        resolve (.izx z) s = .fault (.busFault p0 { s with status := .faulted })) ∧
      ∀ lo s1, memRead p0 s = .next (lo, s1) → mountAt s p1 = none →
        resolve (.izx z) s = .fault (.busFault p1 { s1 with status := .faulted })) ∧
    (p0.toNat = z.toNat → p1.toNat = (z.toNat + 1) % 256 →
      (Mapped s p0 → Mapped s p1 →
        ∃ lo hi ea u, transact [.rd p0, .rd p1] s = .next ([lo, hi], u) ∧
          resolve (.izy z) s = .next (ea, { u with
            cyc := s.cyc + if ea.toNat / 256 = hi.toNat then 0 else 1 }) ∧
          ea.toNat = (hi.toNat * 256 + lo.toNat + s.y.toNat) % 65536 ∧
          (∀ b : Byte, ramByte s p0 = some b → lo = b) ∧
          (ChipsLeave s p1 → ∀ b : Byte, ramByte s p1 = some b → hi = b) ∧
          u.trace = .rd p1 :: .rd p0 :: s.trace ∧ Frame [] [] [] s u ∧ u.pc = s.pc) ∧
      (mountAt s p0 = none →
        resolve (.izy z) s = .fault (.busFault p0 { s with status := .faulted })) ∧
      ∀ lo s1, memRead p0 s = .next (lo, s1) → mountAt s p1 = none →
        resolve (.izy z) s = .fault (.busFault p1 { s1 with status := .faulted }))

/-- R104, R13: an immediate operand is the byte itself; a memory operand is one read at the
effective address, after the resolution, which answers the RAM byte there. -/
def Obligations.OperandReadIsOneTransaction : Prop :=
  (∀ (s : State) (b : Byte), readSource (.imm b) s = .next (b, s)) ∧
  ∀ (s s1 : State) (m : AddrMode) (ea : Word), resolve m s = .next (ea, s1) → Mapped s1 ea →
    ∃ v t, memRead ea s1 = .next (v, t) ∧ readSource (.mem m) s = .next (v, t) ∧
      (∀ b, ramByte s1 ea = some b → v = b) ∧
      (ChipsLeave s ea → ∀ b, ramByte s ea = some b → v = b) ∧
      t.trace = .rd ea :: s1.trace ∧ t.cyc = s1.cyc ∧ t.pc = s.pc ∧ Frame [] [] [] s t

/-- R27: after N pushes followed by N pulls, N at most 256 and the stack page plain RAM that no other
chip changes meanwhile, SP and all pulled values equal their pre-push state. -/
def Obligations.StackIsLastInFirstOut : Prop :=
  ∀ (s : State) (vs : List Byte), s.mem.wf = true → StackInRam s →
    (∀ sp, ChipsLeave s (stackAddr s sp)) → vs.length ≤ 256 →
    ∃ s1 s2, pushAll vs s = .next s1 ∧ pullMany vs.length s1 = .next (vs.reverse, s2) ∧
      s2.sp = s.sp ∧ s2.pc = s.pc ∧ s2.p = s.p

/-! ### Results and frames of the instructions -/

/-- R131: ADC, whatever the decimal flag. -/
def Obligations.AdcAddsWithCarry : Prop :=
  ∀ (i : Instr) (src : Source) (s s1 : State) (m : Byte),
    i.mnemonic = .adc → operandSource i.operand = some src →
    readSource src s = .next (m, s1) →
    ∃ t, exec i s = .next t ∧ ShowsSum s.a m (flag .c s).toNat t ∧
      Frame [.a] [.c, .v, .n, .z] [] s t ∧ t.pc = s.pc ∧
      t.cyc = s1.cyc + baseCycles s.params i.opcode ∧ t.trace = s1.trace

/-- R132, R241: SBC, both immediate bytes, whatever the decimal flag. -/
def Obligations.SbcSubtractsWithBorrow : Prop :=
  ∀ (i : Instr) (src : Source) (s s1 : State) (m : Byte),
    i.mnemonic = .sbc → operandSource i.operand = some src →
    readSource src s = .next (m, s1) →
    ∃ t, exec i s = .next t ∧ ShowsDifference s.a m (flag .c s).toNat t ∧
      Frame [.a] [.c, .v, .n, .z] [] s t ∧ t.pc = s.pc ∧
      t.cyc = s1.cyc + baseCycles s.params i.opcode ∧ t.trace = s1.trace

/-- 95_test_vectors.md section 6: SBC of a byte is ADC of its complement, and V of ADC is the
overflow of the signed sum. -/
def Obligations.SubtractionIsComplementAddition : Prop :=
  ∀ (m : Byte) (s : State), sbcWith m s = adcWith (m ^^^ 0xFF) s ∧
    flag .v (adcWith m s) = decide (s.a.toInt + m.toInt + (flag .c s).toNat < -128 ∨
      127 < s.a.toInt + m.toInt + (flag .c s).toNat)

/-- R133 to R135: AND, ORA, EOR; R240: AAC, which is AND with C taken from bit 7 of the result. -/
def Obligations.LogicCombinesWithAccumulator : Prop :=
  (∀ (i : Instr) (src : Source) (s s1 : State) (m r : Byte),
    logicResult i.mnemonic s.a m = some r → operandSource i.operand = some src →
    readSource src s = .next (m, s1) →
    ∃ t, exec i s = .next t ∧ t.a = r ∧ ShowsNZ r t ∧ Frame [.a] [.n, .z] [] s t ∧ t.pc = s.pc ∧
      t.cyc = s1.cyc + baseCycles s.params i.opcode ∧ t.trace = s1.trace) ∧
  ∀ (i : Instr) (imm : Byte) (s : State), i.mnemonic = .aac → i.operand = .immediate imm →
    ∃ t, exec i s = .next t ∧ t.a = s.a &&& imm ∧ ShowsNZ t.a t ∧
      flag .c t = decide (128 ≤ t.a.toNat) ∧ Frame [.a] [.c, .n, .z] [] s t ∧ t.pc = s.pc ∧
      t.cyc = s.cyc + baseCycles s.params i.opcode ∧ t.trace = s.trace

/-- R136: BIT takes V and N from the operand itself and changes no register. -/
def Obligations.BitTestsOperand : Prop :=
  ∀ (i : Instr) (src : Source) (s s1 : State) (m : Byte),
    i.mnemonic = .bit → operandSource i.operand = some src → readSource src s = .next (m, s1) →
    ∃ t, exec i s = .next t ∧ flag .z t = decide (s.a &&& m = 0) ∧
      flag .v t = decide (64 ≤ m.toNat % 128) ∧ flag .n t = decide (128 ≤ m.toNat) ∧
      Frame [] [.z, .v, .n] [] s t ∧ t.pc = s.pc ∧
      t.cyc = s1.cyc + baseCycles s.params i.opcode ∧ t.trace = s1.trace

/-- R150 to R153: CMP, CPX, CPY. -/
def Obligations.CompareSetsFlagsOnly : Prop :=
  ∀ (i : Instr) (src : Source) (s s1 : State) (m : Byte) (r : Reg),
    comparedReg i.mnemonic = some r → operandSource i.operand = some src →
    readSource src s = .next (m, s1) →
    ∃ t, exec i s = .next t ∧ ShowsCompare (r.get s) m t ∧ Frame [] [.c, .n, .z] [] s t ∧
      t.pc = s.pc ∧ t.cyc = s1.cyc + baseCycles s.params i.opcode ∧ t.trace = s1.trace

/-- R165 to R167: LDA, LDX, LDY. -/
def Obligations.LoadWritesRegister : Prop :=
  ∀ (i : Instr) (src : Source) (s s1 : State) (m : Byte) (r : Reg),
    loadedReg i.mnemonic = some r → operandSource i.operand = some src →
    readSource src s = .next (m, s1) →
    ∃ t, exec i s = .next t ∧ r.get t = m ∧ ShowsNZ m t ∧ Frame [r] [.n, .z] [] s t ∧
      t.pc = s.pc ∧ t.cyc = s1.cyc + baseCycles s.params i.opcode ∧ t.trace = s1.trace

/-- R168 to R170, R232: STA, STX, STY, SAX write one byte at the effective address, read nothing
there and change no flag. -/
def Obligations.StoreWritesOneByte : Prop :=
  ∀ (i : Instr) (m : AddrMode) (s s1 : State) (ea : Word) (v : Byte),
    storedByte i.mnemonic s = some v → operandMode i.operand = some m →
    resolve m s = .next (ea, s1) → Mapped s ea →
    ∃ t, exec i s = .next t ∧
      (s.mem.wf = true → (cellOf s ea).isSome = true → ChipsLeave s ea → ramByte t ea = some v) ∧
      Frame [] [] [ea] s t ∧ t.pc = s.pc ∧
      t.cyc = s1.cyc + baseCycles s.params i.opcode ∧ t.trace = .wr ea v :: s1.trace

/-- R102: an operand access at an unmapped address faults, a load's, a store's or a read-modify-write's
alike, with every register, flag and memory byte as it was; only the surcharge and the reads of the
resolution stand; and a resolution that faults ends the instruction there. -/
def Obligations.FaultingOperandAccessChangesNothing : Prop :=
  ∀ (i : Instr) (m : AddrMode) (s : State),
    refusedOpcode s.params i.opcode = false → operandMode i.operand = some m →
    (accessesOperand i.mnemonic = true → ∀ s1 ea, resolve m s = .next (ea, s1) →
      mountAt s ea = none →
      exec i s = .fault (.busFault ea { s1 with status := .faulted }) ∧
        RegsKept [] s s1 ∧ s1.p = s.p ∧ s1.pc = s.pc ∧ StoredOnlyAt [] s s1) ∧
    ∀ r, resolve m s = .fault r → exec i s = .fault r

/-- R102: a push or a pull at an unmapped address faults with the pushes or pulls before it and their
changes of SP standing, a pull's own change of SP and the P that RTI pulled too (vectors F5, F9), and
nothing else changed; BRK's vector read with I set besides. -/
def Obligations.FaultingStackAccessKeepsEarlierOnes : Prop :=
  (∀ (i : Instr) (s u : State) (k : Nat) (vs : List Byte),
    k < (pushedBytes i.mnemonic s).length →
    transact ((pushWrites s s.sp (pushedBytes i.mnemonic s)).take k) s = .next (vs, u) →
    mountAt s (stackAddr s (s.sp - BitVec.ofNat 8 k)) = none →
    exec i s = .fault (.busFault (stackAddr s (s.sp - BitVec.ofNat 8 k)) { u with
      sp := s.sp - BitVec.ofNat 8 k, status := .faulted })) ∧
  (∀ (i : Instr) (s u : State) (k : Nat) (vs : List Byte), k < pulledCount i.mnemonic →
    transact ((pullReads s (s.sp + 1) (pulledCount i.mnemonic)).take k) s = .next (vs, u) →
    mountAt s (stackAddr s (s.sp + BitVec.ofNat 8 (k + 1))) = none →
    exec i s = .fault (.busFault (stackAddr s (s.sp + BitVec.ofNat 8 (k + 1))) { u with
      sp := s.sp + BitVec.ofNat 8 (k + 1)
      p := match i.mnemonic, vs with
        | .rti, v :: _ => (v ||| 0x20) &&& 0xEF
        | _, _ => s.p
      status := .faulted })) ∧
  ∀ (s u : State) (k : Nat) (vs : List Byte), k < 2 →
    transact (pushWrites s s.sp (pushedBytes .brk s) ++ [BusOp.rd 0xFFFE].take k) s =
      .next (vs, u) →
    mountAt s (0xFFFE + BitVec.ofNat 16 k) = none →
    exec .brk s = .fault (.busFault (0xFFFE + BitVec.ofNat 16 k) { u with
      sp := s.sp - 3, p := s.p ||| 0x04, status := .faulted })

/-- R56, R102: a step whose fetch faults stops with PC as the fetch had left it: unmoved at the opcode
byte, past the opcode at an operand byte (vectors F1, F10), past the byte itself where it is immediate
(R104; log 14); and an NMI service that faults stops with its pushes and their changes of SP, at the
vector I too, standing, the latch not cleared and nothing charged (vector F8). -/
def Obligations.FaultingFetchOrServiceStops : Prop :=
  (∀ s s0 : State, s.status = .running → boundary s = .next s0 → s0.booted = true →
    (mountAt s0 s0.pc = none → step s = .fault (.busFault s0.pc { s0 with status := .faulted })) ∧
    ∀ (i : Instr) (op b1 b2 : Byte) (rest : List Byte) (s1 : State),
      memRead s0.pc s0 = .next (op, s1) → decode [op, b1, b2] = .ok (i, rest) →
      refusedOpcode s0.params op = false →
      (2 ≤ (fetchReads i s0.pc).length → mountAt s0 (s0.pc + 1) = none →
        step s = .fault (.busFault (s0.pc + 1) { s1 with
          pc := s0.pc + if (operandMode i.operand).isSome then 1 else 2, status := .faulted })) ∧
      ∀ lo s2, (fetchReads i s0.pc).length = 3 → memRead (s0.pc + 1) s1 = .next (lo, s2) →
        mountAt s0 (s0.pc + 2) = none →
        step s = .fault (.busFault (s0.pc + 2) { s2 with
          pc := s0.pc + 1, status := .faulted })) ∧
  ∀ (s : State) (dummy : Word) (pushed : List Byte),
    s.params.nmiDummyAddr.getD s.pc = dummy →
    pushed = [highByte s.pc, lowByte s.pc, (s.p ||| 0x20) &&& 0xEF] →
    (mountAt s dummy = none →
      serviceNmi s = .fault (.busFault dummy { s with status := .faulted })) ∧
    (∀ k vs u, k < 3 →
      transact (.rd dummy :: .rd dummy :: (pushWrites s s.sp pushed).take k) s = .next (vs, u) →
      mountAt s (stackAddr s (s.sp - BitVec.ofNat 8 k)) = none →
      serviceNmi s = .fault (.busFault (stackAddr s (s.sp - BitVec.ofNat 8 k)) { u with
        sp := s.sp - BitVec.ofNat 8 k, status := .faulted })) ∧
    ∀ k vs u, k < 2 →
      transact (.rd dummy :: .rd dummy :: (pushWrites s s.sp pushed ++
        [BusOp.rd 0xFFFA].take k)) s = .next (vs, u) →
      mountAt s (0xFFFA + BitVec.ofNat 16 k) = none →
      serviceNmi s = .fault (.busFault (0xFFFA + BitVec.ofNat 16 k) { u with
        sp := s.sp - 3, p := s.p ||| 0x04, status := .faulted })

/-- R141 to R144: the shifts and rotates, of the accumulator without a transaction, of memory with
one read and one write at the one address (R140). -/
def Obligations.ShiftsAndRotates : Prop :=
  (∀ (i : Instr) (s : State) (r : Nat) (c : Bool),
    i.operand = .accumulator → shiftedNat i.mnemonic s.a.toNat (flag .c s).toNat = some r →
    shiftedOff i.mnemonic s.a.toNat = some c →
    ∃ t, exec i s = .next t ∧ t.a.toNat = r ∧ flag .c t = c ∧ ShowsNZ t.a t ∧
      Frame [.a] [.c, .n, .z] [] s t ∧ t.pc = s.pc ∧
      t.cyc = s.cyc + baseCycles s.params i.opcode ∧ t.trace = s.trace) ∧
  ∀ (i : Instr) (m : AddrMode) (s s1 s2 : State) (ea : Word) (v : Byte) (r : Nat) (c : Bool),
    operandMode i.operand = some m → resolve m s = .next (ea, s1) →
    memRead ea s1 = .next (v, s2) →
    shiftedNat i.mnemonic v.toNat (flag .c s).toNat = some r →
    shiftedOff i.mnemonic v.toNat = some c →
    ∃ t, exec i s = .next t ∧ flag .c t = c ∧ ShowsNZ (BitVec.ofNat 8 r) t ∧
      (s.mem.wf = true → (cellOf s ea).isSome = true → ChipsLeave s ea →
        ramByte t ea = some (BitVec.ofNat 8 r)) ∧
      Frame [] [.c, .n, .z] [ea] s t ∧ t.pc = s.pc ∧
      t.cyc = s1.cyc + baseCycles s.params i.opcode ∧
      t.trace = .wr ea (BitVec.ofNat 8 r) :: .rd ea :: s1.trace

/-- R154, R155: INC and DEC, C and V unaffected. -/
def Obligations.MemoryIncrementAndDecrement : Prop :=
  ∀ (i : Instr) (m : AddrMode) (s s1 s2 : State) (ea : Word) (v r : Byte),
    ((i.mnemonic = .inc ∧ r.toNat = (v.toNat + 1) % 256) ∨
      (i.mnemonic = .dec ∧ r.toNat = (v.toNat + 255) % 256)) →
    operandMode i.operand = some m → resolve m s = .next (ea, s1) →
    memRead ea s1 = .next (v, s2) →
    ∃ t, exec i s = .next t ∧ ShowsNZ r t ∧
      (s.mem.wf = true → (cellOf s ea).isSome = true → ChipsLeave s ea → ramByte t ea = some r) ∧
      Frame [] [.n, .z] [ea] s t ∧ t.pc = s.pc ∧
      t.cyc = s1.cyc + baseCycles s.params i.opcode ∧
      t.trace = .wr ea r :: .rd ea :: s1.trace

/-- R156 to R159, R171 to R176: the implied moves, increments and decrements; TXS has no flag
effect. -/
def Obligations.RegisterMoves : Prop :=
  (∀ (i : Instr) (s : State) (r : Reg) (n : Nat), movedReg i.mnemonic s = some (r, n) →
    ∃ t, exec i s = .next t ∧ (r.get t).toNat = n ∧ ShowsNZ (r.get t) t ∧
      Frame [r] [.n, .z] [] s t ∧ t.pc = s.pc ∧
      t.cyc = s.cyc + baseCycles s.params i.opcode ∧ t.trace = s.trace) ∧
  ∀ s : State, ∃ t, exec .txs s = .next t ∧ t.sp = s.x ∧ Frame [.sp] [] [] s t ∧ t.pc = s.pc ∧
    t.cyc = s.cyc + baseCycles s.params 0x9A ∧ t.trace = s.trace

/-- R209 to R215: each flag instruction writes its one flag. -/
def Obligations.FlagInstructionsWriteOneFlag : Prop :=
  ∀ (i : Instr) (s : State) (f : Flag) (b : Bool), writtenFlag i.mnemonic = some (f, b) →
    ∃ t, exec i s = .next t ∧ flag f t = b ∧ Frame [] [f] [] s t ∧ t.pc = s.pc ∧
      t.cyc = s.cyc + baseCycles s.params i.opcode ∧ t.trace = s.trace

/-- R216, R239: a NOP resolves its operand and does nothing; the cell there is not read. -/
def Obligations.NopsOnlyResolve : Prop :=
  ∀ (i : Instr) (s : State), i.mnemonic = .nop →
    (∀ m ea s1, operandMode i.operand = some m → resolve m s = .next (ea, s1) →
      exec i s = .next { s1 with cyc := s1.cyc + baseCycles s.params i.opcode }) ∧
    (operandMode i.operand = none →
      exec i s = .next { s with cyc := s.cyc + baseCycles s.params i.opcode })

/-- R185 to R193: the eight branches. -/
def Obligations.BranchesTestOneFlag : Prop :=
  ∀ (i : Instr) (s : State) (off : Byte) (f : Flag) (b : Bool) (target : Word),
    branchTest i.mnemonic = some (f, b) → i.operand = .addressed (.rel off) →
    (target.toNat : Int) = ((s.pc.toNat : Int) + off.toInt) % 65536 →
    (flag f s = b → exec i s = .next { s with
      pc := target
      cyc := s.cyc + (if target.toNat / 256 = s.pc.toNat / 256 then 1 else 2) +
        baseCycles s.params i.opcode }) ∧
    (flag f s ≠ b → exec i s = .next { s with cyc := s.cyc + baseCycles s.params i.opcode })

/-- R194: JMP loads PC with the effective address and does nothing else. -/
def Obligations.JumpLoadsPc : Prop :=
  ∀ (i : Instr) (m : AddrMode) (s s1 : State) (ea : Word),
    i.mnemonic = .jmp → operandMode i.operand = some m → resolve m s = .next (ea, s1) →
    exec i s = .next { s1 with pc := ea, cyc := s1.cyc + baseCycles s.params i.opcode }

/-- R195: JSR pushes the address of its last byte, high then low, and jumps. -/
def Obligations.JsrPushesReturnAddress : Prop :=
  ∀ (s : State) (addr r : Word), r.toNat = (s.pc.toNat + 65535) % 65536 →
    Mapped s (stackAddr s s.sp) → Mapped s (stackAddr s (s.sp - 1)) →
    ∃ t, exec (.jsr addr) s = .next t ∧ t.pc = addr ∧ t.sp = s.sp - 2 ∧
      (s.mem.wf = true → DistinctCells s (stackAddr s s.sp) (stackAddr s (s.sp - 1)) →
        (ChipsLeave s (stackAddr s s.sp) → ramByte t (stackAddr s s.sp) = some (highByte r)) ∧
        (ChipsLeave s (stackAddr s (s.sp - 1)) →
          ramByte t (stackAddr s (s.sp - 1)) = some (lowByte r))) ∧
      Frame [.sp] [] [stackAddr s s.sp, stackAddr s (s.sp - 1)] s t ∧
      t.cyc = s.cyc + baseCycles s.params 0x20 ∧
      t.trace = .wr (stackAddr s (s.sp - 1)) (lowByte r) ::
        .wr (stackAddr s s.sp) (highByte r) :: s.trace

/-- R196: RTS pulls low then high and adds 1. -/
def Obligations.RtsReturns : Prop :=
  ∀ s : State, Mapped s (stackAddr s (s.sp + 1)) → Mapped s (stackAddr s (s.sp + 2)) →
    ∃ lo hi u t, transact [.rd (stackAddr s (s.sp + 1)), .rd (stackAddr s (s.sp + 2))] s =
        .next ([lo, hi], u) ∧
      exec .rts s = .next t ∧ t.pc.toNat = (hi.toNat * 256 + lo.toNat + 1) % 65536 ∧
      (∀ b : Byte, ramByte s (stackAddr s (s.sp + 1)) = some b → lo = b) ∧
      (ChipsLeave s (stackAddr s (s.sp + 2)) →
        ∀ b : Byte, ramByte s (stackAddr s (s.sp + 2)) = some b → hi = b) ∧
      t.sp = s.sp + 2 ∧ Frame [.sp] [] [] s t ∧ t.cyc = s.cyc + baseCycles s.params 0x60 ∧
      t = { u with pc := t.pc, sp := t.sp, cyc := t.cyc } ∧
      t.trace = .rd (stackAddr s (s.sp + 2)) :: .rd (stackAddr s (s.sp + 1)) :: s.trace

/-- R195, R196, R288: RTS undoes JSR, and RTI undoes BRK two bytes past BRK's address, the stack being
RAM that no other chip changes meanwhile. -/
def Obligations.ReturnsUndoCalls : Prop :=
  (∀ (s : State) (addr : Word), s.mem.wf = true →
    DistinctCells s (stackAddr s s.sp) (stackAddr s (s.sp - 1)) →
    ChipsLeave s (stackAddr s s.sp) → ChipsLeave s (stackAddr s (s.sp - 1)) →
    ∃ t u, exec (.jsr addr) s = .next t ∧ exec .rts t = .next u ∧ u.pc = s.pc ∧ u.sp = s.sp ∧
      RegsKept [] s u ∧ u.p = s.p) ∧
  ∀ s : State, s.mem.wf = true → StackInRam s → (∀ sp, ChipsLeave s (stackAddr s sp)) →
    Mapped s 0xFFFE → Mapped s 0xFFFF →
    ∃ t u, exec .brk s = .next t ∧ exec .rti t = .next u ∧ u.pc = s.pc + 1 ∧ u.sp = s.sp ∧
      u.p = (s.p ||| 0x20) &&& 0xEF ∧ RegsKept [] s u

/-- R205, R207: PHA and PHP. -/
def Obligations.PushInstructions : Prop :=
  ∀ (i : Instr) (s : State) (v : Byte),
    ((i = .pha ∧ v = s.a) ∨ (i = .php ∧ v = s.p ||| 0x30)) → Mapped s (stackAddr s s.sp) →
    ∃ t, exec i s = .next t ∧ t.sp = s.sp - 1 ∧
      (s.mem.wf = true → (cellOf s (stackAddr s s.sp)).isSome = true →
        ChipsLeave s (stackAddr s s.sp) → ramByte t (stackAddr s s.sp) = some v) ∧
      Frame [.sp] [] [stackAddr s s.sp] s t ∧ t.pc = s.pc ∧
      t.cyc = s.cyc + baseCycles s.params i.opcode ∧
      t.trace = .wr (stackAddr s s.sp) v :: s.trace

/-- R206, R208: PLA, and PLP, which restores the six real flags, bit 5 as 1 and bit 4 as 0. -/
def Obligations.PullInstructions : Prop :=
  ∀ s : State, Mapped s (stackAddr s (s.sp + 1)) →
    ∃ v u, memRead (stackAddr s (s.sp + 1)) s = .next (v, u) ∧
      (∀ b : Byte, ramByte s (stackAddr s (s.sp + 1)) = some b → v = b) ∧
      (∃ t, exec .pla s = .next t ∧ t.a = v ∧ ShowsNZ v t ∧
        t.sp = s.sp + 1 ∧ Frame [.a, .sp] [.n, .z] [] s t ∧ t.pc = s.pc ∧
        t.cyc = s.cyc + baseCycles s.params 0x68 ∧
        t = { u with a := t.a, sp := t.sp, p := t.p, cyc := t.cyc } ∧
        t.trace = .rd (stackAddr s (s.sp + 1)) :: s.trace) ∧
      ∃ t, exec .plp s = .next t ∧
        (∀ f : Flag, f ≠ .u → f ≠ .b → flag f t = v.getLsbD f.index) ∧
        flag .u t = true ∧ flag .b t = false ∧
        t.sp = s.sp + 1 ∧ Frame [.sp] [.c, .z, .i, .d, .b, .u, .v, .n] [] s t ∧ t.pc = s.pc ∧
        t.cyc = s.cyc + baseCycles s.params 0x28 ∧
        t = { u with sp := t.sp, p := t.p, cyc := t.cyc } ∧
        t.trace = .rd (stackAddr s (s.sp + 1)) :: s.trace

/-! ### Exceptions and the NMI latch -/

/-- R220: BRK's entry. -/
def Obligations.BrkEntersHandler : Prop :=
  ∀ (s : State) (ret : Word), ret.toNat = (s.pc.toNat + 1) % 65536 →
    Mapped s (stackAddr s s.sp) → Mapped s (stackAddr s (s.sp - 1)) →
    Mapped s (stackAddr s (s.sp - 2)) → Mapped s 0xFFFE → Mapped s 0xFFFF →
    ∃ lo hi u t, transact [.wr (stackAddr s s.sp) (highByte ret),
        .wr (stackAddr s (s.sp - 1)) (lowByte ret), .wr (stackAddr s (s.sp - 2)) (s.p ||| 0x30),
        .rd 0xFFFE, .rd 0xFFFF] s = .next ([lo, hi], u) ∧
      exec .brk s = .next t ∧ t.pc.toNat = hi.toNat * 256 + lo.toNat ∧
      ((∀ sp : Byte, cellOf s 0xFFFE ≠ cellOf s (stackAddr s sp)) → ChipsLeave s 0xFFFE →
        ∀ b : Byte, ramByte s 0xFFFE = some b → lo = b) ∧
      ((∀ sp : Byte, cellOf s 0xFFFF ≠ cellOf s (stackAddr s sp)) → ChipsLeave s 0xFFFF →
        ∀ b : Byte, ramByte s 0xFFFF = some b → hi = b) ∧
      t.sp = s.sp - 3 ∧ flag .i t = true ∧
      (s.mem.wf = true → StackInRam s → (∀ sp, ChipsLeave s (stackAddr s sp)) →
        ramByte t (stackAddr s s.sp) = some (highByte ret) ∧
        ramByte t (stackAddr s (s.sp - 1)) = some (lowByte ret) ∧
        ramByte t (stackAddr s (s.sp - 2)) = some (s.p ||| 0x30)) ∧
      Frame [.sp] [.i] [stackAddr s s.sp, stackAddr s (s.sp - 1), stackAddr s (s.sp - 2)] s t ∧
      t.cyc = s.cyc + baseCycles s.params 0x00 ∧
      t = { u with pc := t.pc, sp := t.sp, p := t.p, cyc := t.cyc } ∧
      t.trace = .rd 0xFFFF :: .rd 0xFFFE :: .wr (stackAddr s (s.sp - 2)) (s.p ||| 0x30) ::
        .wr (stackAddr s (s.sp - 1)) (lowByte ret) :: .wr (stackAddr s s.sp) (highByte ret) ::
        s.trace

/-- R221: RTI's return. -/
def Obligations.RtiReturns : Prop :=
  ∀ s : State, Mapped s (stackAddr s (s.sp + 1)) → Mapped s (stackAddr s (s.sp + 2)) →
    Mapped s (stackAddr s (s.sp + 3)) →
    ∃ v lo hi u t, transact [.rd (stackAddr s (s.sp + 1)), .rd (stackAddr s (s.sp + 2)),
        .rd (stackAddr s (s.sp + 3))] s = .next ([v, lo, hi], u) ∧
      exec .rti s = .next t ∧ t.pc.toNat = hi.toNat * 256 + lo.toNat ∧
      (∀ b : Byte, ramByte s (stackAddr s (s.sp + 1)) = some b → v = b) ∧
      (ChipsLeave s (stackAddr s (s.sp + 2)) →
        ∀ b : Byte, ramByte s (stackAddr s (s.sp + 2)) = some b → lo = b) ∧
      (ChipsLeave s (stackAddr s (s.sp + 3)) →
        ∀ b : Byte, ramByte s (stackAddr s (s.sp + 3)) = some b → hi = b) ∧
      (∀ f : Flag, f ≠ .u → f ≠ .b → flag f t = v.getLsbD f.index) ∧
      flag .u t = true ∧ flag .b t = false ∧ t.sp = s.sp + 3 ∧
      Frame [.sp] [.c, .z, .i, .d, .b, .u, .v, .n] [] s t ∧
      t.cyc = s.cyc + baseCycles s.params 0x40 ∧
      t = { u with pc := t.pc, sp := t.sp, p := t.p, cyc := t.cyc } ∧
      t.trace = .rd (stackAddr s (s.sp + 3)) :: .rd (stackAddr s (s.sp + 2)) ::
        .rd (stackAddr s (s.sp + 1)) :: s.trace

/-- R281, R282: the NMI check services a due request and with nothing due changes nothing; the
service: two throwaway reads, trap entry with bit 4 clear, the latch Idle, the service charged. -/
def Obligations.NmiServiceEntersHandler : Prop :=
  ∀ (s : State) (dummy : Word),
    (s.params.nmiLatency = .formula →
      (¬(s.nmi.pending = true ∧ s.nmi.raisedAt + 1 < s.cyc) → nmiCheck s = .next s) ∧
      (s.nmi.pending = true → s.nmi.raisedAt + 1 < s.cyc → nmiCheck s = serviceNmi s)) ∧
    (s.params.nmiDummyAddr.getD s.pc = dummy →
      Mapped s dummy → Mapped s (stackAddr s s.sp) → Mapped s (stackAddr s (s.sp - 1)) →
      Mapped s (stackAddr s (s.sp - 2)) → Mapped s 0xFFFA → Mapped s 0xFFFB →
      ∃ d1 d2 lo hi u t, transact [.rd dummy, .rd dummy, .wr (stackAddr s s.sp) (highByte s.pc),
          .wr (stackAddr s (s.sp - 1)) (lowByte s.pc),
          .wr (stackAddr s (s.sp - 2)) ((s.p ||| 0x20) &&& 0xEF), .rd 0xFFFA, .rd 0xFFFB] s =
            .next ([d1, d2, lo, hi], u) ∧
        serviceNmi s = .next t ∧ t.pc.toNat = hi.toNat * 256 + lo.toNat ∧
        ((∀ sp : Byte, cellOf s 0xFFFA ≠ cellOf s (stackAddr s sp)) → ChipsLeave s 0xFFFA →
          ∀ b : Byte, ramByte s 0xFFFA = some b → lo = b) ∧
        ((∀ sp : Byte, cellOf s 0xFFFB ≠ cellOf s (stackAddr s sp)) → ChipsLeave s 0xFFFB →
          ∀ b : Byte, ramByte s 0xFFFB = some b → hi = b) ∧
        (s.mem.wf = true → StackInRam s → (∀ sp, ChipsLeave s (stackAddr s sp)) →
          ramByte t (stackAddr s s.sp) = some (highByte s.pc) ∧
          ramByte t (stackAddr s (s.sp - 1)) = some (lowByte s.pc) ∧
          ramByte t (stackAddr s (s.sp - 2)) = some ((s.p ||| 0x20) &&& 0xEF)) ∧
        t.sp = s.sp - 3 ∧ flag .i t = true ∧ t.nmi.pending = false ∧ RegsKept [.sp] s t ∧
        FlagsKept [.i] s t ∧ EnvironmentKept s t ∧
        StoredOnlyAt [stackAddr s s.sp, stackAddr s (s.sp - 1), stackAddr s (s.sp - 2)] s t ∧
        t.cyc = s.cyc + s.params.nmiServiceCycles ∧
        t = { u with pc := t.pc, sp := t.sp, p := t.p, cyc := t.cyc, nmi := t.nmi } ∧
        t.trace = .rd 0xFFFB :: .rd 0xFFFA ::
          .wr (stackAddr s (s.sp - 2)) ((s.p ||| 0x20) &&& 0xEF) ::
          .wr (stackAddr s (s.sp - 1)) (lowByte s.pc) ::
          .wr (stackAddr s s.sp) (highByte s.pc) :: .rd dummy :: .rd dummy :: s.trace)

/-- R284: under the abstraction a pending request is serviced or deferred at its first examination,
and serviced at its second. -/
def Obligations.NmiServicedByTheSecondCheck : Prop :=
  ∀ s : State, s.params.nmiLatency = .firstOrSecondCheck → s.nmi.pending = true →
    (s.nmi.examined = true → nmiCheck s = serviceNmi s) ∧
    (s.nmi.examined = false → ∀ ds, s.defers = false :: ds →
      nmiCheck s = serviceNmi { s with defers := ds }) ∧
    (s.nmi.examined = false → ∀ ds, s.defers = true :: ds →
      nmiCheck s = .next { s with defers := ds, nmi := { s.nmi with examined := true } })

/-- R300, R33: Reset() sets P, A, X, Y, SP and `cyc`, makes the latch Idle where RESET_CLEARS_LATCH
says so, its stamp standing, and leaves all else alone: PC, status, memory and by default the latch.
That it is recorded in `resetDone` is the model's boot record (log 22), no word of R300. -/
def Obligations.ResetSetsRegisters : Prop :=
  ∀ s : State, resetCore s = { s with
    p := s.params.resetFlags, a := 0, x := 0, y := 0, sp := 0xFD, cyc := 0, resetDone := true
    nmi := if s.params.resetClearsLatch then { s.nmi with pending := false } else s.nmi }

/-- R301: Boot() resets, loads PC from the reset vector with two reads and charges nothing; an
unmapped vector byte faults with the registers already reset and PC not loaded. That the load is
recorded in `pcLoaded` is the model's boot record (log 22). -/
def Obligations.BootLoadsResetVector : Prop :=
  ∀ s : State, s.status = .running →
    (mountAt s 0xFFFC = none →
      boot s = .fault (.busFault 0xFFFC { resetCore s with status := .faulted })) ∧
    (∀ lo s1, memRead 0xFFFC (resetCore s) = .next (lo, s1) → mountAt s 0xFFFD = none →
      boot s = .fault (.busFault 0xFFFD { s1 with status := .faulted })) ∧
    (Mapped s 0xFFFC → Mapped s 0xFFFD →
      ∃ lo hi u t, transact [.rd 0xFFFC, .rd 0xFFFD] (resetCore s) = .next ([lo, hi], u) ∧
        boot s = .next t ∧ t.pc.toNat = hi.toNat * 256 + lo.toNat ∧
        (∀ b : Byte, ramByte s 0xFFFC = some b → lo = b) ∧
        (ChipsLeave s 0xFFFD → ∀ b : Byte, ramByte s 0xFFFD = some b → hi = b) ∧
        t.a = 0 ∧ t.x = 0 ∧ t.y = 0 ∧ t.sp = 0xFD ∧ t.p = s.params.resetFlags ∧ t.cyc = 0 ∧
        t.booted = true ∧ t.status = .running ∧ StoredOnlyAt [] s t ∧
        t = { u with pc := t.pc, pcLoaded := true } ∧
        t.trace = .rd 0xFFFD :: .rd 0xFFFC :: s.trace)

/-- 10_state.md section 7: `State.reset` is what Boot() makes of a machine just powered on in
environment E0, whatever its registers held (the environment is the model's choice, log 4 and
log 7). -/
def Obligations.ResetStateIsBootOfPowerOn : Prop :=
  ∀ (a x y sp p : Byte) (pc : Word) (cyc stamp : Nat),
    boot (State.powerOn a x y sp p pc cyc stamp Params.default [] [wholeRam]) =
      .next { State.reset with
        nmi := { pending := false, raisedAt := stamp, examined := false }
        trace := [.rd 0xFFFD, .rd 0xFFFC] }

/-! ### Undocumented instructions -/

/-- R231: LAX reads the cell twice, A from the first read and X from the second. -/
def Obligations.LaxLoadsTwice : Prop :=
  ∀ (i : Instr) (m : AddrMode) (s s1 : State) (ea : Word),
    i.mnemonic = .lax → operandMode i.operand = some m → resolve m s = .next (ea, s1) →
    Mapped s ea →
    ∃ v w u t, transact [.rd ea, .rd ea] s1 = .next ([v, w], u) ∧ exec i s = .next t ∧
      t.a = v ∧ t.x = w ∧
      (ChipsLeave s ea → ∀ b : Byte, ramByte s ea = some b → v = b ∧ w = b) ∧ ShowsNZ t.x t ∧
      Frame [.a, .x] [.n, .z] [] s t ∧ t.pc = s.pc ∧
      t.cyc = s1.cyc + baseCycles s.params i.opcode ∧
      t = { u with a := t.a, x := t.x, p := t.p, cyc := t.cyc } ∧
      t.trace = .rd ea :: .rd ea :: s1.trace

/-- R233 to R235: SLO, RLA, SRE shift memory, read it again and combine the byte read again with A. -/
def Obligations.ShiftAndLogicCombine : Prop :=
  ∀ (i : Instr) (sh lg : Mnemonic) (m : AddrMode) (s s1 s2 : State) (ea : Word) (v : Byte)
    (r : Nat) (c : Bool),
    (i.mnemonic, sh, lg) ∈
      [(Mnemonic.slo, Mnemonic.asl, Mnemonic.ora), (.rla, .rol, .and), (.sre, .lsr, .eor)] →
    operandMode i.operand = some m → resolve m s = .next (ea, s1) →
    memRead ea s1 = .next (v, s2) →
    shiftedNat sh v.toNat (flag .c s).toNat = some r → shiftedOff sh v.toNat = some c →
    ∃ w u t, transact [.wr ea (BitVec.ofNat 8 r), .rd ea] s2 = .next ([w], u) ∧
      exec i s = .next t ∧ logicResult lg s.a w = some t.a ∧
      (s.mem.wf = true → (cellOf s ea).isSome = true → ChipsLeave s ea →
        w = BitVec.ofNat 8 r ∧ ramByte t ea = some (BitVec.ofNat 8 r)) ∧
      flag .c t = c ∧ ShowsNZ t.a t ∧ Frame [.a] [.c, .n, .z] [ea] s t ∧ t.pc = s.pc ∧
      t.cyc = s1.cyc + baseCycles s.params i.opcode ∧
      t = { u with a := t.a, p := t.p, cyc := t.cyc } ∧
      t.trace = .rd ea :: .wr ea (BitVec.ofNat 8 r) :: .rd ea :: s1.trace

/-- R236 to R238: RRA, DCP, ISB change memory, read it again, and add, compare or subtract the byte
read again; RRA's addition takes the carry its rotation left. -/
def Obligations.ModifyAndArithmeticCombine : Prop :=
  ∀ (i : Instr) (m : AddrMode) (s s1 s2 : State) (ea : Word) (v r : Byte),
    operandMode i.operand = some m → resolve m s = .next (ea, s1) →
    memRead ea s1 = .next (v, s2) →
    ((i.mnemonic = .rra ∧ r.toNat = v.toNat / 2 + (flag .c s).toNat * 128) ∨
      (i.mnemonic = .dcp ∧ r.toNat = (v.toNat + 255) % 256) ∨
      (i.mnemonic = .isb ∧ r.toNat = (v.toNat + 1) % 256)) →
    ∃ w u t, transact [.wr ea r, .rd ea] s2 = .next ([w], u) ∧ exec i s = .next t ∧
      (s.mem.wf = true → (cellOf s ea).isSome = true → ChipsLeave s ea →
        w = r ∧ ramByte t ea = some r) ∧
      (i.mnemonic = .rra → ShowsSum s.a w (v.toNat % 2) t ∧
        Frame [.a] [.c, .v, .n, .z] [ea] s t) ∧
      (i.mnemonic = .dcp → ShowsCompare s.a w t ∧ Frame [] [.c, .n, .z] [ea] s t) ∧
      (i.mnemonic = .isb → ShowsDifference s.a w (flag .c s).toNat t ∧
        Frame [.a] [.c, .v, .n, .z] [ea] s t) ∧
      t.pc = s.pc ∧ t.cyc = s1.cyc + baseCycles s.params i.opcode ∧
      t = { u with a := t.a, p := t.p, cyc := t.cyc } ∧
      t.trace = .rd ea :: .wr ea r :: .rd ea :: s1.trace

/-- R251 to R256: the unnamed opcodes that ADMIT_UNNAMED_UNDOC admits; the byte MAGIC of ATX and XAA
is whatever the free value is. -/
def Obligations.AdmittedUnnamedInstructions : Prop :=
  ∀ (i : Instr) (src : Source) (s s1 : State) (m : Byte),
    s.params.admitUnnamedUndoc = true → operandSource i.operand = some src →
    readSource src s = .next (m, s1) →
    i.mnemonic ∈ [Mnemonic.asr, .arr, .axs, .lar, .atx, .xaa] →
    ∃ magic t, exec i s = .next t ∧ t.pc = s.pc ∧
      t.cyc = s1.cyc + baseCycles s.params i.opcode ∧ t.trace = s1.trace ∧
      (i.mnemonic = .asr → t.a.toNat = (s.a &&& m).toNat / 2 ∧ ShowsNZ t.a t ∧
        flag .c t = decide ((s.a &&& m).toNat % 2 = 1) ∧ Frame [.a] [.c, .n, .z] [] s t) ∧
      (i.mnemonic = .arr → t.a.toNat = (s.a &&& m).toNat / 2 + (flag .c s).toNat * 128 ∧
        ShowsNZ t.a t ∧ flag .c t = t.a.getLsbD 6 ∧
        flag .v t = (t.a.getLsbD 6 != t.a.getLsbD 5) ∧ Frame [.a] [.c, .v, .n, .z] [] s t) ∧
      (i.mnemonic = .axs → t.x = (s.a &&& s.x) - m ∧ ShowsCompare (s.a &&& s.x) m t ∧
        Frame [.x] [.c, .n, .z] [] s t) ∧
      (i.mnemonic = .lar → t.a = m &&& s.sp ∧ t.x = m &&& s.sp ∧ t.sp = m &&& s.sp ∧
        ShowsNZ t.a t ∧ Frame [.a, .x, .sp] [.n, .z] [] s t) ∧
      (i.mnemonic = .atx → t.a = (s.a ||| magic) &&& m ∧ t.x = t.a ∧ ShowsNZ t.a t ∧
        Frame [.a, .x] [.n, .z] [] s t) ∧
      (i.mnemonic = .xaa → t.a = (s.a ||| magic) &&& s.x &&& m ∧ ShowsNZ t.a t ∧
        Frame [.a] [.n, .z] [] s t)
end

