-- ==== Sys2Proof/Laws/State.lean ====
section
/-! SUPPORT. One law per field per update of State, so that no proof unfolds a record update. -/

namespace Sys2Proof.Machine

section
variable (s : State) (v : Byte)
@[simp] theorem State.setA_a : (s.setA v).a = v := rfl
@[simp] theorem State.setA_x : (s.setA v).x = s.x := rfl
@[simp] theorem State.setA_y : (s.setA v).y = s.y := rfl
@[simp] theorem State.setA_sp : (s.setA v).sp = s.sp := rfl
@[simp] theorem State.setA_p : (s.setA v).p = s.p := rfl
@[simp] theorem State.setA_pc : (s.setA v).pc = s.pc := rfl
@[simp] theorem State.setA_cyc : (s.setA v).cyc = s.cyc := rfl
@[simp] theorem State.setA_nmi : (s.setA v).nmi = s.nmi := rfl
@[simp] theorem State.setA_status : (s.setA v).status = s.status := rfl
@[simp] theorem State.setA_resetDone : (s.setA v).resetDone = s.resetDone := rfl
@[simp] theorem State.setA_pcLoaded : (s.setA v).pcLoaded = s.pcLoaded := rfl
@[simp] theorem State.setA_params : (s.setA v).params = s.params := rfl
@[simp] theorem State.setA_mem : (s.setA v).mem = s.mem := rfl
@[simp] theorem State.setA_mounts : (s.setA v).mounts = s.mounts := rfl
@[simp] theorem State.setA_turns : (s.setA v).turns = s.turns := rfl
@[simp] theorem State.setA_calls : (s.setA v).calls = s.calls := rfl
@[simp] theorem State.setA_defers : (s.setA v).defers = s.defers := rfl
@[simp] theorem State.setA_draws : (s.setA v).draws = s.draws := rfl
@[simp] theorem State.setA_trace : (s.setA v).trace = s.trace := rfl
end

section
variable (s : State) (v : Byte)
@[simp] theorem State.setX_a : (s.setX v).a = s.a := rfl
@[simp] theorem State.setX_x : (s.setX v).x = v := rfl
@[simp] theorem State.setX_y : (s.setX v).y = s.y := rfl
@[simp] theorem State.setX_sp : (s.setX v).sp = s.sp := rfl
@[simp] theorem State.setX_p : (s.setX v).p = s.p := rfl
@[simp] theorem State.setX_pc : (s.setX v).pc = s.pc := rfl
@[simp] theorem State.setX_cyc : (s.setX v).cyc = s.cyc := rfl
@[simp] theorem State.setX_nmi : (s.setX v).nmi = s.nmi := rfl
@[simp] theorem State.setX_status : (s.setX v).status = s.status := rfl
@[simp] theorem State.setX_resetDone : (s.setX v).resetDone = s.resetDone := rfl
@[simp] theorem State.setX_pcLoaded : (s.setX v).pcLoaded = s.pcLoaded := rfl
@[simp] theorem State.setX_params : (s.setX v).params = s.params := rfl
@[simp] theorem State.setX_mem : (s.setX v).mem = s.mem := rfl
@[simp] theorem State.setX_mounts : (s.setX v).mounts = s.mounts := rfl
@[simp] theorem State.setX_turns : (s.setX v).turns = s.turns := rfl
@[simp] theorem State.setX_calls : (s.setX v).calls = s.calls := rfl
@[simp] theorem State.setX_defers : (s.setX v).defers = s.defers := rfl
@[simp] theorem State.setX_draws : (s.setX v).draws = s.draws := rfl
@[simp] theorem State.setX_trace : (s.setX v).trace = s.trace := rfl
end

section
variable (s : State) (v : Byte)
@[simp] theorem State.setY_a : (s.setY v).a = s.a := rfl
@[simp] theorem State.setY_x : (s.setY v).x = s.x := rfl
@[simp] theorem State.setY_y : (s.setY v).y = v := rfl
@[simp] theorem State.setY_sp : (s.setY v).sp = s.sp := rfl
@[simp] theorem State.setY_p : (s.setY v).p = s.p := rfl
@[simp] theorem State.setY_pc : (s.setY v).pc = s.pc := rfl
@[simp] theorem State.setY_cyc : (s.setY v).cyc = s.cyc := rfl
@[simp] theorem State.setY_nmi : (s.setY v).nmi = s.nmi := rfl
@[simp] theorem State.setY_status : (s.setY v).status = s.status := rfl
@[simp] theorem State.setY_resetDone : (s.setY v).resetDone = s.resetDone := rfl
@[simp] theorem State.setY_pcLoaded : (s.setY v).pcLoaded = s.pcLoaded := rfl
@[simp] theorem State.setY_params : (s.setY v).params = s.params := rfl
@[simp] theorem State.setY_mem : (s.setY v).mem = s.mem := rfl
@[simp] theorem State.setY_mounts : (s.setY v).mounts = s.mounts := rfl
@[simp] theorem State.setY_turns : (s.setY v).turns = s.turns := rfl
@[simp] theorem State.setY_calls : (s.setY v).calls = s.calls := rfl
@[simp] theorem State.setY_defers : (s.setY v).defers = s.defers := rfl
@[simp] theorem State.setY_draws : (s.setY v).draws = s.draws := rfl
@[simp] theorem State.setY_trace : (s.setY v).trace = s.trace := rfl
end

section
variable (s : State) (v : Byte)
@[simp] theorem State.setSp_a : (s.setSp v).a = s.a := rfl
@[simp] theorem State.setSp_x : (s.setSp v).x = s.x := rfl
@[simp] theorem State.setSp_y : (s.setSp v).y = s.y := rfl
@[simp] theorem State.setSp_sp : (s.setSp v).sp = v := rfl
@[simp] theorem State.setSp_p : (s.setSp v).p = s.p := rfl
@[simp] theorem State.setSp_pc : (s.setSp v).pc = s.pc := rfl
@[simp] theorem State.setSp_cyc : (s.setSp v).cyc = s.cyc := rfl
@[simp] theorem State.setSp_nmi : (s.setSp v).nmi = s.nmi := rfl
@[simp] theorem State.setSp_status : (s.setSp v).status = s.status := rfl
@[simp] theorem State.setSp_resetDone : (s.setSp v).resetDone = s.resetDone := rfl
@[simp] theorem State.setSp_pcLoaded : (s.setSp v).pcLoaded = s.pcLoaded := rfl
@[simp] theorem State.setSp_params : (s.setSp v).params = s.params := rfl
@[simp] theorem State.setSp_mem : (s.setSp v).mem = s.mem := rfl
@[simp] theorem State.setSp_mounts : (s.setSp v).mounts = s.mounts := rfl
@[simp] theorem State.setSp_turns : (s.setSp v).turns = s.turns := rfl
@[simp] theorem State.setSp_calls : (s.setSp v).calls = s.calls := rfl
@[simp] theorem State.setSp_defers : (s.setSp v).defers = s.defers := rfl
@[simp] theorem State.setSp_draws : (s.setSp v).draws = s.draws := rfl
@[simp] theorem State.setSp_trace : (s.setSp v).trace = s.trace := rfl
end

section
variable (s : State) (v : Byte)
@[simp] theorem State.setP_a : (s.setP v).a = s.a := rfl
@[simp] theorem State.setP_x : (s.setP v).x = s.x := rfl
@[simp] theorem State.setP_y : (s.setP v).y = s.y := rfl
@[simp] theorem State.setP_sp : (s.setP v).sp = s.sp := rfl
@[simp] theorem State.setP_p : (s.setP v).p = v := rfl
@[simp] theorem State.setP_pc : (s.setP v).pc = s.pc := rfl
@[simp] theorem State.setP_cyc : (s.setP v).cyc = s.cyc := rfl
@[simp] theorem State.setP_nmi : (s.setP v).nmi = s.nmi := rfl
@[simp] theorem State.setP_status : (s.setP v).status = s.status := rfl
@[simp] theorem State.setP_resetDone : (s.setP v).resetDone = s.resetDone := rfl
@[simp] theorem State.setP_pcLoaded : (s.setP v).pcLoaded = s.pcLoaded := rfl
@[simp] theorem State.setP_params : (s.setP v).params = s.params := rfl
@[simp] theorem State.setP_mem : (s.setP v).mem = s.mem := rfl
@[simp] theorem State.setP_mounts : (s.setP v).mounts = s.mounts := rfl
@[simp] theorem State.setP_turns : (s.setP v).turns = s.turns := rfl
@[simp] theorem State.setP_calls : (s.setP v).calls = s.calls := rfl
@[simp] theorem State.setP_defers : (s.setP v).defers = s.defers := rfl
@[simp] theorem State.setP_draws : (s.setP v).draws = s.draws := rfl
@[simp] theorem State.setP_trace : (s.setP v).trace = s.trace := rfl
end

section
variable (s : State) (v : Word)
@[simp] theorem State.setPc_a : (s.setPc v).a = s.a := rfl
@[simp] theorem State.setPc_x : (s.setPc v).x = s.x := rfl
@[simp] theorem State.setPc_y : (s.setPc v).y = s.y := rfl
@[simp] theorem State.setPc_sp : (s.setPc v).sp = s.sp := rfl
@[simp] theorem State.setPc_p : (s.setPc v).p = s.p := rfl
@[simp] theorem State.setPc_pc : (s.setPc v).pc = v := rfl
@[simp] theorem State.setPc_cyc : (s.setPc v).cyc = s.cyc := rfl
@[simp] theorem State.setPc_nmi : (s.setPc v).nmi = s.nmi := rfl
@[simp] theorem State.setPc_status : (s.setPc v).status = s.status := rfl
@[simp] theorem State.setPc_resetDone : (s.setPc v).resetDone = s.resetDone := rfl
@[simp] theorem State.setPc_pcLoaded : (s.setPc v).pcLoaded = s.pcLoaded := rfl
@[simp] theorem State.setPc_params : (s.setPc v).params = s.params := rfl
@[simp] theorem State.setPc_mem : (s.setPc v).mem = s.mem := rfl
@[simp] theorem State.setPc_mounts : (s.setPc v).mounts = s.mounts := rfl
@[simp] theorem State.setPc_turns : (s.setPc v).turns = s.turns := rfl
@[simp] theorem State.setPc_calls : (s.setPc v).calls = s.calls := rfl
@[simp] theorem State.setPc_defers : (s.setPc v).defers = s.defers := rfl
@[simp] theorem State.setPc_draws : (s.setPc v).draws = s.draws := rfl
@[simp] theorem State.setPc_trace : (s.setPc v).trace = s.trace := rfl
end

section
variable (s : State) (v : Nat)
@[simp] theorem State.setCyc_a : (s.setCyc v).a = s.a := rfl
@[simp] theorem State.setCyc_x : (s.setCyc v).x = s.x := rfl
@[simp] theorem State.setCyc_y : (s.setCyc v).y = s.y := rfl
@[simp] theorem State.setCyc_sp : (s.setCyc v).sp = s.sp := rfl
@[simp] theorem State.setCyc_p : (s.setCyc v).p = s.p := rfl
@[simp] theorem State.setCyc_pc : (s.setCyc v).pc = s.pc := rfl
@[simp] theorem State.setCyc_cyc : (s.setCyc v).cyc = v := rfl
@[simp] theorem State.setCyc_nmi : (s.setCyc v).nmi = s.nmi := rfl
@[simp] theorem State.setCyc_status : (s.setCyc v).status = s.status := rfl
@[simp] theorem State.setCyc_resetDone : (s.setCyc v).resetDone = s.resetDone := rfl
@[simp] theorem State.setCyc_pcLoaded : (s.setCyc v).pcLoaded = s.pcLoaded := rfl
@[simp] theorem State.setCyc_params : (s.setCyc v).params = s.params := rfl
@[simp] theorem State.setCyc_mem : (s.setCyc v).mem = s.mem := rfl
@[simp] theorem State.setCyc_mounts : (s.setCyc v).mounts = s.mounts := rfl
@[simp] theorem State.setCyc_turns : (s.setCyc v).turns = s.turns := rfl
@[simp] theorem State.setCyc_calls : (s.setCyc v).calls = s.calls := rfl
@[simp] theorem State.setCyc_defers : (s.setCyc v).defers = s.defers := rfl
@[simp] theorem State.setCyc_draws : (s.setCyc v).draws = s.draws := rfl
@[simp] theorem State.setCyc_trace : (s.setCyc v).trace = s.trace := rfl
end

section
variable (s : State) (v : Latch)
@[simp] theorem State.setNmi_a : (s.setNmi v).a = s.a := rfl
@[simp] theorem State.setNmi_x : (s.setNmi v).x = s.x := rfl
@[simp] theorem State.setNmi_y : (s.setNmi v).y = s.y := rfl
@[simp] theorem State.setNmi_sp : (s.setNmi v).sp = s.sp := rfl
@[simp] theorem State.setNmi_p : (s.setNmi v).p = s.p := rfl
@[simp] theorem State.setNmi_pc : (s.setNmi v).pc = s.pc := rfl
@[simp] theorem State.setNmi_cyc : (s.setNmi v).cyc = s.cyc := rfl
@[simp] theorem State.setNmi_nmi : (s.setNmi v).nmi = v := rfl
@[simp] theorem State.setNmi_status : (s.setNmi v).status = s.status := rfl
@[simp] theorem State.setNmi_resetDone : (s.setNmi v).resetDone = s.resetDone := rfl
@[simp] theorem State.setNmi_pcLoaded : (s.setNmi v).pcLoaded = s.pcLoaded := rfl
@[simp] theorem State.setNmi_params : (s.setNmi v).params = s.params := rfl
@[simp] theorem State.setNmi_mem : (s.setNmi v).mem = s.mem := rfl
@[simp] theorem State.setNmi_mounts : (s.setNmi v).mounts = s.mounts := rfl
@[simp] theorem State.setNmi_turns : (s.setNmi v).turns = s.turns := rfl
@[simp] theorem State.setNmi_calls : (s.setNmi v).calls = s.calls := rfl
@[simp] theorem State.setNmi_defers : (s.setNmi v).defers = s.defers := rfl
@[simp] theorem State.setNmi_draws : (s.setNmi v).draws = s.draws := rfl
@[simp] theorem State.setNmi_trace : (s.setNmi v).trace = s.trace := rfl
end

section
variable (s : State) (v : Status)
@[simp] theorem State.setStatus_a : (s.setStatus v).a = s.a := rfl
@[simp] theorem State.setStatus_x : (s.setStatus v).x = s.x := rfl
@[simp] theorem State.setStatus_y : (s.setStatus v).y = s.y := rfl
@[simp] theorem State.setStatus_sp : (s.setStatus v).sp = s.sp := rfl
@[simp] theorem State.setStatus_p : (s.setStatus v).p = s.p := rfl
@[simp] theorem State.setStatus_pc : (s.setStatus v).pc = s.pc := rfl
@[simp] theorem State.setStatus_cyc : (s.setStatus v).cyc = s.cyc := rfl
@[simp] theorem State.setStatus_nmi : (s.setStatus v).nmi = s.nmi := rfl
@[simp] theorem State.setStatus_status : (s.setStatus v).status = v := rfl
@[simp] theorem State.setStatus_resetDone : (s.setStatus v).resetDone = s.resetDone := rfl
@[simp] theorem State.setStatus_pcLoaded : (s.setStatus v).pcLoaded = s.pcLoaded := rfl
@[simp] theorem State.setStatus_params : (s.setStatus v).params = s.params := rfl
@[simp] theorem State.setStatus_mem : (s.setStatus v).mem = s.mem := rfl
@[simp] theorem State.setStatus_mounts : (s.setStatus v).mounts = s.mounts := rfl
@[simp] theorem State.setStatus_turns : (s.setStatus v).turns = s.turns := rfl
@[simp] theorem State.setStatus_calls : (s.setStatus v).calls = s.calls := rfl
@[simp] theorem State.setStatus_defers : (s.setStatus v).defers = s.defers := rfl
@[simp] theorem State.setStatus_draws : (s.setStatus v).draws = s.draws := rfl
@[simp] theorem State.setStatus_trace : (s.setStatus v).trace = s.trace := rfl
end

section
variable (s : State) (v : Bool)
@[simp] theorem State.setResetDone_a : (s.setResetDone v).a = s.a := rfl
@[simp] theorem State.setResetDone_x : (s.setResetDone v).x = s.x := rfl
@[simp] theorem State.setResetDone_y : (s.setResetDone v).y = s.y := rfl
@[simp] theorem State.setResetDone_sp : (s.setResetDone v).sp = s.sp := rfl
@[simp] theorem State.setResetDone_p : (s.setResetDone v).p = s.p := rfl
@[simp] theorem State.setResetDone_pc : (s.setResetDone v).pc = s.pc := rfl
@[simp] theorem State.setResetDone_cyc : (s.setResetDone v).cyc = s.cyc := rfl
@[simp] theorem State.setResetDone_nmi : (s.setResetDone v).nmi = s.nmi := rfl
@[simp] theorem State.setResetDone_status : (s.setResetDone v).status = s.status := rfl
@[simp] theorem State.setResetDone_resetDone : (s.setResetDone v).resetDone = v := rfl
@[simp] theorem State.setResetDone_pcLoaded : (s.setResetDone v).pcLoaded = s.pcLoaded := rfl
@[simp] theorem State.setResetDone_params : (s.setResetDone v).params = s.params := rfl
@[simp] theorem State.setResetDone_mem : (s.setResetDone v).mem = s.mem := rfl
@[simp] theorem State.setResetDone_mounts : (s.setResetDone v).mounts = s.mounts := rfl
@[simp] theorem State.setResetDone_turns : (s.setResetDone v).turns = s.turns := rfl
@[simp] theorem State.setResetDone_calls : (s.setResetDone v).calls = s.calls := rfl
@[simp] theorem State.setResetDone_defers : (s.setResetDone v).defers = s.defers := rfl
@[simp] theorem State.setResetDone_draws : (s.setResetDone v).draws = s.draws := rfl
@[simp] theorem State.setResetDone_trace : (s.setResetDone v).trace = s.trace := rfl
end

section
variable (s : State) (v : Bool)
@[simp] theorem State.setPcLoaded_a : (s.setPcLoaded v).a = s.a := rfl
@[simp] theorem State.setPcLoaded_x : (s.setPcLoaded v).x = s.x := rfl
@[simp] theorem State.setPcLoaded_y : (s.setPcLoaded v).y = s.y := rfl
@[simp] theorem State.setPcLoaded_sp : (s.setPcLoaded v).sp = s.sp := rfl
@[simp] theorem State.setPcLoaded_p : (s.setPcLoaded v).p = s.p := rfl
@[simp] theorem State.setPcLoaded_pc : (s.setPcLoaded v).pc = s.pc := rfl
@[simp] theorem State.setPcLoaded_cyc : (s.setPcLoaded v).cyc = s.cyc := rfl
@[simp] theorem State.setPcLoaded_nmi : (s.setPcLoaded v).nmi = s.nmi := rfl
@[simp] theorem State.setPcLoaded_status : (s.setPcLoaded v).status = s.status := rfl
@[simp] theorem State.setPcLoaded_resetDone : (s.setPcLoaded v).resetDone = s.resetDone := rfl
@[simp] theorem State.setPcLoaded_pcLoaded : (s.setPcLoaded v).pcLoaded = v := rfl
@[simp] theorem State.setPcLoaded_params : (s.setPcLoaded v).params = s.params := rfl
@[simp] theorem State.setPcLoaded_mem : (s.setPcLoaded v).mem = s.mem := rfl
@[simp] theorem State.setPcLoaded_mounts : (s.setPcLoaded v).mounts = s.mounts := rfl
@[simp] theorem State.setPcLoaded_turns : (s.setPcLoaded v).turns = s.turns := rfl
@[simp] theorem State.setPcLoaded_calls : (s.setPcLoaded v).calls = s.calls := rfl
@[simp] theorem State.setPcLoaded_defers : (s.setPcLoaded v).defers = s.defers := rfl
@[simp] theorem State.setPcLoaded_draws : (s.setPcLoaded v).draws = s.draws := rfl
@[simp] theorem State.setPcLoaded_trace : (s.setPcLoaded v).trace = s.trace := rfl
end

section
variable (s : State) (v : Memory)
@[simp] theorem State.setMem_a : (s.setMem v).a = s.a := rfl
@[simp] theorem State.setMem_x : (s.setMem v).x = s.x := rfl
@[simp] theorem State.setMem_y : (s.setMem v).y = s.y := rfl
@[simp] theorem State.setMem_sp : (s.setMem v).sp = s.sp := rfl
@[simp] theorem State.setMem_p : (s.setMem v).p = s.p := rfl
@[simp] theorem State.setMem_pc : (s.setMem v).pc = s.pc := rfl
@[simp] theorem State.setMem_cyc : (s.setMem v).cyc = s.cyc := rfl
@[simp] theorem State.setMem_nmi : (s.setMem v).nmi = s.nmi := rfl
@[simp] theorem State.setMem_status : (s.setMem v).status = s.status := rfl
@[simp] theorem State.setMem_resetDone : (s.setMem v).resetDone = s.resetDone := rfl
@[simp] theorem State.setMem_pcLoaded : (s.setMem v).pcLoaded = s.pcLoaded := rfl
@[simp] theorem State.setMem_params : (s.setMem v).params = s.params := rfl
@[simp] theorem State.setMem_mem : (s.setMem v).mem = v := rfl
@[simp] theorem State.setMem_mounts : (s.setMem v).mounts = s.mounts := rfl
@[simp] theorem State.setMem_turns : (s.setMem v).turns = s.turns := rfl
@[simp] theorem State.setMem_calls : (s.setMem v).calls = s.calls := rfl
@[simp] theorem State.setMem_defers : (s.setMem v).defers = s.defers := rfl
@[simp] theorem State.setMem_draws : (s.setMem v).draws = s.draws := rfl
@[simp] theorem State.setMem_trace : (s.setMem v).trace = s.trace := rfl
end

section
variable (s : State) (v : List Mount)
@[simp] theorem State.setMounts_a : (s.setMounts v).a = s.a := rfl
@[simp] theorem State.setMounts_x : (s.setMounts v).x = s.x := rfl
@[simp] theorem State.setMounts_y : (s.setMounts v).y = s.y := rfl
@[simp] theorem State.setMounts_sp : (s.setMounts v).sp = s.sp := rfl
@[simp] theorem State.setMounts_p : (s.setMounts v).p = s.p := rfl
@[simp] theorem State.setMounts_pc : (s.setMounts v).pc = s.pc := rfl
@[simp] theorem State.setMounts_cyc : (s.setMounts v).cyc = s.cyc := rfl
@[simp] theorem State.setMounts_nmi : (s.setMounts v).nmi = s.nmi := rfl
@[simp] theorem State.setMounts_status : (s.setMounts v).status = s.status := rfl
@[simp] theorem State.setMounts_resetDone : (s.setMounts v).resetDone = s.resetDone := rfl
@[simp] theorem State.setMounts_pcLoaded : (s.setMounts v).pcLoaded = s.pcLoaded := rfl
@[simp] theorem State.setMounts_params : (s.setMounts v).params = s.params := rfl
@[simp] theorem State.setMounts_mem : (s.setMounts v).mem = s.mem := rfl
@[simp] theorem State.setMounts_mounts : (s.setMounts v).mounts = v := rfl
@[simp] theorem State.setMounts_turns : (s.setMounts v).turns = s.turns := rfl
@[simp] theorem State.setMounts_calls : (s.setMounts v).calls = s.calls := rfl
@[simp] theorem State.setMounts_defers : (s.setMounts v).defers = s.defers := rfl
@[simp] theorem State.setMounts_draws : (s.setMounts v).draws = s.draws := rfl
@[simp] theorem State.setMounts_trace : (s.setMounts v).trace = s.trace := rfl
end

section
variable (s : State) (v : List BusTurn)
@[simp] theorem State.setTurns_a : (s.setTurns v).a = s.a := rfl
@[simp] theorem State.setTurns_x : (s.setTurns v).x = s.x := rfl
@[simp] theorem State.setTurns_y : (s.setTurns v).y = s.y := rfl
@[simp] theorem State.setTurns_sp : (s.setTurns v).sp = s.sp := rfl
@[simp] theorem State.setTurns_p : (s.setTurns v).p = s.p := rfl
@[simp] theorem State.setTurns_pc : (s.setTurns v).pc = s.pc := rfl
@[simp] theorem State.setTurns_cyc : (s.setTurns v).cyc = s.cyc := rfl
@[simp] theorem State.setTurns_nmi : (s.setTurns v).nmi = s.nmi := rfl
@[simp] theorem State.setTurns_status : (s.setTurns v).status = s.status := rfl
@[simp] theorem State.setTurns_resetDone : (s.setTurns v).resetDone = s.resetDone := rfl
@[simp] theorem State.setTurns_pcLoaded : (s.setTurns v).pcLoaded = s.pcLoaded := rfl
@[simp] theorem State.setTurns_params : (s.setTurns v).params = s.params := rfl
@[simp] theorem State.setTurns_mem : (s.setTurns v).mem = s.mem := rfl
@[simp] theorem State.setTurns_mounts : (s.setTurns v).mounts = s.mounts := rfl
@[simp] theorem State.setTurns_turns : (s.setTurns v).turns = v := rfl
@[simp] theorem State.setTurns_calls : (s.setTurns v).calls = s.calls := rfl
@[simp] theorem State.setTurns_defers : (s.setTurns v).defers = s.defers := rfl
@[simp] theorem State.setTurns_draws : (s.setTurns v).draws = s.draws := rfl
@[simp] theorem State.setTurns_trace : (s.setTurns v).trace = s.trace := rfl
end

section
variable (s : State) (v : List (List HostCall))
@[simp] theorem State.setCalls_a : (s.setCalls v).a = s.a := rfl
@[simp] theorem State.setCalls_x : (s.setCalls v).x = s.x := rfl
@[simp] theorem State.setCalls_y : (s.setCalls v).y = s.y := rfl
@[simp] theorem State.setCalls_sp : (s.setCalls v).sp = s.sp := rfl
@[simp] theorem State.setCalls_p : (s.setCalls v).p = s.p := rfl
@[simp] theorem State.setCalls_pc : (s.setCalls v).pc = s.pc := rfl
@[simp] theorem State.setCalls_cyc : (s.setCalls v).cyc = s.cyc := rfl
@[simp] theorem State.setCalls_nmi : (s.setCalls v).nmi = s.nmi := rfl
@[simp] theorem State.setCalls_status : (s.setCalls v).status = s.status := rfl
@[simp] theorem State.setCalls_resetDone : (s.setCalls v).resetDone = s.resetDone := rfl
@[simp] theorem State.setCalls_pcLoaded : (s.setCalls v).pcLoaded = s.pcLoaded := rfl
@[simp] theorem State.setCalls_params : (s.setCalls v).params = s.params := rfl
@[simp] theorem State.setCalls_mem : (s.setCalls v).mem = s.mem := rfl
@[simp] theorem State.setCalls_mounts : (s.setCalls v).mounts = s.mounts := rfl
@[simp] theorem State.setCalls_turns : (s.setCalls v).turns = s.turns := rfl
@[simp] theorem State.setCalls_calls : (s.setCalls v).calls = v := rfl
@[simp] theorem State.setCalls_defers : (s.setCalls v).defers = s.defers := rfl
@[simp] theorem State.setCalls_draws : (s.setCalls v).draws = s.draws := rfl
@[simp] theorem State.setCalls_trace : (s.setCalls v).trace = s.trace := rfl
end

section
variable (s : State) (v : List Bool)
@[simp] theorem State.setDefers_a : (s.setDefers v).a = s.a := rfl
@[simp] theorem State.setDefers_x : (s.setDefers v).x = s.x := rfl
@[simp] theorem State.setDefers_y : (s.setDefers v).y = s.y := rfl
@[simp] theorem State.setDefers_sp : (s.setDefers v).sp = s.sp := rfl
@[simp] theorem State.setDefers_p : (s.setDefers v).p = s.p := rfl
@[simp] theorem State.setDefers_pc : (s.setDefers v).pc = s.pc := rfl
@[simp] theorem State.setDefers_cyc : (s.setDefers v).cyc = s.cyc := rfl
@[simp] theorem State.setDefers_nmi : (s.setDefers v).nmi = s.nmi := rfl
@[simp] theorem State.setDefers_status : (s.setDefers v).status = s.status := rfl
@[simp] theorem State.setDefers_resetDone : (s.setDefers v).resetDone = s.resetDone := rfl
@[simp] theorem State.setDefers_pcLoaded : (s.setDefers v).pcLoaded = s.pcLoaded := rfl
@[simp] theorem State.setDefers_params : (s.setDefers v).params = s.params := rfl
@[simp] theorem State.setDefers_mem : (s.setDefers v).mem = s.mem := rfl
@[simp] theorem State.setDefers_mounts : (s.setDefers v).mounts = s.mounts := rfl
@[simp] theorem State.setDefers_turns : (s.setDefers v).turns = s.turns := rfl
@[simp] theorem State.setDefers_calls : (s.setDefers v).calls = s.calls := rfl
@[simp] theorem State.setDefers_defers : (s.setDefers v).defers = v := rfl
@[simp] theorem State.setDefers_draws : (s.setDefers v).draws = s.draws := rfl
@[simp] theorem State.setDefers_trace : (s.setDefers v).trace = s.trace := rfl
end

section
variable (s : State) (v : Nat)
@[simp] theorem State.setDraws_a : (s.setDraws v).a = s.a := rfl
@[simp] theorem State.setDraws_x : (s.setDraws v).x = s.x := rfl
@[simp] theorem State.setDraws_y : (s.setDraws v).y = s.y := rfl
@[simp] theorem State.setDraws_sp : (s.setDraws v).sp = s.sp := rfl
@[simp] theorem State.setDraws_p : (s.setDraws v).p = s.p := rfl
@[simp] theorem State.setDraws_pc : (s.setDraws v).pc = s.pc := rfl
@[simp] theorem State.setDraws_cyc : (s.setDraws v).cyc = s.cyc := rfl
@[simp] theorem State.setDraws_nmi : (s.setDraws v).nmi = s.nmi := rfl
@[simp] theorem State.setDraws_status : (s.setDraws v).status = s.status := rfl
@[simp] theorem State.setDraws_resetDone : (s.setDraws v).resetDone = s.resetDone := rfl
@[simp] theorem State.setDraws_pcLoaded : (s.setDraws v).pcLoaded = s.pcLoaded := rfl
@[simp] theorem State.setDraws_params : (s.setDraws v).params = s.params := rfl
@[simp] theorem State.setDraws_mem : (s.setDraws v).mem = s.mem := rfl
@[simp] theorem State.setDraws_mounts : (s.setDraws v).mounts = s.mounts := rfl
@[simp] theorem State.setDraws_turns : (s.setDraws v).turns = s.turns := rfl
@[simp] theorem State.setDraws_calls : (s.setDraws v).calls = s.calls := rfl
@[simp] theorem State.setDraws_defers : (s.setDraws v).defers = s.defers := rfl
@[simp] theorem State.setDraws_draws : (s.setDraws v).draws = v := rfl
@[simp] theorem State.setDraws_trace : (s.setDraws v).trace = s.trace := rfl
end

section
variable (s : State) (v : List BusOp)
@[simp] theorem State.setTrace_a : (s.setTrace v).a = s.a := rfl
@[simp] theorem State.setTrace_x : (s.setTrace v).x = s.x := rfl
@[simp] theorem State.setTrace_y : (s.setTrace v).y = s.y := rfl
@[simp] theorem State.setTrace_sp : (s.setTrace v).sp = s.sp := rfl
@[simp] theorem State.setTrace_p : (s.setTrace v).p = s.p := rfl
@[simp] theorem State.setTrace_pc : (s.setTrace v).pc = s.pc := rfl
@[simp] theorem State.setTrace_cyc : (s.setTrace v).cyc = s.cyc := rfl
@[simp] theorem State.setTrace_nmi : (s.setTrace v).nmi = s.nmi := rfl
@[simp] theorem State.setTrace_status : (s.setTrace v).status = s.status := rfl
@[simp] theorem State.setTrace_resetDone : (s.setTrace v).resetDone = s.resetDone := rfl
@[simp] theorem State.setTrace_pcLoaded : (s.setTrace v).pcLoaded = s.pcLoaded := rfl
@[simp] theorem State.setTrace_params : (s.setTrace v).params = s.params := rfl
@[simp] theorem State.setTrace_mem : (s.setTrace v).mem = s.mem := rfl
@[simp] theorem State.setTrace_mounts : (s.setTrace v).mounts = s.mounts := rfl
@[simp] theorem State.setTrace_turns : (s.setTrace v).turns = s.turns := rfl
@[simp] theorem State.setTrace_calls : (s.setTrace v).calls = s.calls := rfl
@[simp] theorem State.setTrace_defers : (s.setTrace v).defers = s.defers := rfl
@[simp] theorem State.setTrace_draws : (s.setTrace v).draws = s.draws := rfl
@[simp] theorem State.setTrace_trace : (s.setTrace v).trace = v := rfl
end

section
variable (f : Flag) (b : Bool) (s : State)
@[simp] theorem setFlag_a : (setFlag f b s).a = s.a := rfl
@[simp] theorem setFlag_x : (setFlag f b s).x = s.x := rfl
@[simp] theorem setFlag_y : (setFlag f b s).y = s.y := rfl
@[simp] theorem setFlag_sp : (setFlag f b s).sp = s.sp := rfl
@[simp] theorem setFlag_p : (setFlag f b s).p = withBit s.p f.index b := rfl
@[simp] theorem setFlag_pc : (setFlag f b s).pc = s.pc := rfl
@[simp] theorem setFlag_cyc : (setFlag f b s).cyc = s.cyc := rfl
@[simp] theorem setFlag_nmi : (setFlag f b s).nmi = s.nmi := rfl
@[simp] theorem setFlag_status : (setFlag f b s).status = s.status := rfl
@[simp] theorem setFlag_resetDone : (setFlag f b s).resetDone = s.resetDone := rfl
@[simp] theorem setFlag_pcLoaded : (setFlag f b s).pcLoaded = s.pcLoaded := rfl
@[simp] theorem setFlag_params : (setFlag f b s).params = s.params := rfl
@[simp] theorem setFlag_mem : (setFlag f b s).mem = s.mem := rfl
@[simp] theorem setFlag_mounts : (setFlag f b s).mounts = s.mounts := rfl
@[simp] theorem setFlag_turns : (setFlag f b s).turns = s.turns := rfl
@[simp] theorem setFlag_calls : (setFlag f b s).calls = s.calls := rfl
@[simp] theorem setFlag_defers : (setFlag f b s).defers = s.defers := rfl
@[simp] theorem setFlag_draws : (setFlag f b s).draws = s.draws := rfl
@[simp] theorem setFlag_trace : (setFlag f b s).trace = s.trace := rfl
end

section
variable (n : Nat) (s : State)
@[simp] theorem charge_a : (charge n s).a = s.a := rfl
@[simp] theorem charge_x : (charge n s).x = s.x := rfl
@[simp] theorem charge_y : (charge n s).y = s.y := rfl
@[simp] theorem charge_sp : (charge n s).sp = s.sp := rfl
@[simp] theorem charge_p : (charge n s).p = s.p := rfl
@[simp] theorem charge_pc : (charge n s).pc = s.pc := rfl
@[simp] theorem charge_cyc : (charge n s).cyc = s.cyc + n := rfl
@[simp] theorem charge_nmi : (charge n s).nmi = s.nmi := rfl
@[simp] theorem charge_status : (charge n s).status = s.status := rfl
@[simp] theorem charge_resetDone : (charge n s).resetDone = s.resetDone := rfl
@[simp] theorem charge_pcLoaded : (charge n s).pcLoaded = s.pcLoaded := rfl
@[simp] theorem charge_params : (charge n s).params = s.params := rfl
@[simp] theorem charge_mem : (charge n s).mem = s.mem := rfl
@[simp] theorem charge_mounts : (charge n s).mounts = s.mounts := rfl
@[simp] theorem charge_turns : (charge n s).turns = s.turns := rfl
@[simp] theorem charge_calls : (charge n s).calls = s.calls := rfl
@[simp] theorem charge_defers : (charge n s).defers = s.defers := rfl
@[simp] theorem charge_draws : (charge n s).draws = s.draws := rfl
@[simp] theorem charge_trace : (charge n s).trace = s.trace := rfl
end

section
variable (op : Byte) (s : State)
@[simp] theorem chargeBase_a : (chargeBase op s).a = s.a := rfl
@[simp] theorem chargeBase_x : (chargeBase op s).x = s.x := rfl
@[simp] theorem chargeBase_y : (chargeBase op s).y = s.y := rfl
@[simp] theorem chargeBase_sp : (chargeBase op s).sp = s.sp := rfl
@[simp] theorem chargeBase_p : (chargeBase op s).p = s.p := rfl
@[simp] theorem chargeBase_pc : (chargeBase op s).pc = s.pc := rfl
@[simp] theorem chargeBase_cyc : (chargeBase op s).cyc = s.cyc + baseCycles s.params op := rfl
@[simp] theorem chargeBase_nmi : (chargeBase op s).nmi = s.nmi := rfl
@[simp] theorem chargeBase_status : (chargeBase op s).status = s.status := rfl
@[simp] theorem chargeBase_resetDone : (chargeBase op s).resetDone = s.resetDone := rfl
@[simp] theorem chargeBase_pcLoaded : (chargeBase op s).pcLoaded = s.pcLoaded := rfl
@[simp] theorem chargeBase_params : (chargeBase op s).params = s.params := rfl
@[simp] theorem chargeBase_mem : (chargeBase op s).mem = s.mem := rfl
@[simp] theorem chargeBase_mounts : (chargeBase op s).mounts = s.mounts := rfl
@[simp] theorem chargeBase_turns : (chargeBase op s).turns = s.turns := rfl
@[simp] theorem chargeBase_calls : (chargeBase op s).calls = s.calls := rfl
@[simp] theorem chargeBase_defers : (chargeBase op s).defers = s.defers := rfl
@[simp] theorem chargeBase_draws : (chargeBase op s).draws = s.draws := rfl
@[simp] theorem chargeBase_trace : (chargeBase op s).trace = s.trace := rfl
end

section
variable (v : Byte) (s : State)
@[simp] theorem setNZ_a : (setNZ v s).a = s.a := rfl
@[simp] theorem setNZ_x : (setNZ v s).x = s.x := rfl
@[simp] theorem setNZ_y : (setNZ v s).y = s.y := rfl
@[simp] theorem setNZ_sp : (setNZ v s).sp = s.sp := rfl
@[simp] theorem setNZ_pc : (setNZ v s).pc = s.pc := rfl
@[simp] theorem setNZ_cyc : (setNZ v s).cyc = s.cyc := rfl
@[simp] theorem setNZ_nmi : (setNZ v s).nmi = s.nmi := rfl
@[simp] theorem setNZ_status : (setNZ v s).status = s.status := rfl
@[simp] theorem setNZ_resetDone : (setNZ v s).resetDone = s.resetDone := rfl
@[simp] theorem setNZ_pcLoaded : (setNZ v s).pcLoaded = s.pcLoaded := rfl
@[simp] theorem setNZ_params : (setNZ v s).params = s.params := rfl
@[simp] theorem setNZ_mem : (setNZ v s).mem = s.mem := rfl
@[simp] theorem setNZ_mounts : (setNZ v s).mounts = s.mounts := rfl
@[simp] theorem setNZ_turns : (setNZ v s).turns = s.turns := rfl
@[simp] theorem setNZ_calls : (setNZ v s).calls = s.calls := rfl
@[simp] theorem setNZ_defers : (setNZ v s).defers = s.defers := rfl
@[simp] theorem setNZ_draws : (setNZ v s).draws = s.draws := rfl
@[simp] theorem setNZ_trace : (setNZ v s).trace = s.trace := rfl
end

section
variable (s : State)
@[simp] theorem State.drawn_a : s.drawn.a = s.a := rfl
@[simp] theorem State.drawn_x : s.drawn.x = s.x := rfl
@[simp] theorem State.drawn_y : s.drawn.y = s.y := rfl
@[simp] theorem State.drawn_sp : s.drawn.sp = s.sp := rfl
@[simp] theorem State.drawn_p : s.drawn.p = s.p := rfl
@[simp] theorem State.drawn_pc : s.drawn.pc = s.pc := rfl
@[simp] theorem State.drawn_cyc : s.drawn.cyc = s.cyc := rfl
@[simp] theorem State.drawn_nmi : s.drawn.nmi = s.nmi := rfl
@[simp] theorem State.drawn_status : s.drawn.status = s.status := rfl
@[simp] theorem State.drawn_resetDone : s.drawn.resetDone = s.resetDone := rfl
@[simp] theorem State.drawn_pcLoaded : s.drawn.pcLoaded = s.pcLoaded := rfl
@[simp] theorem State.drawn_params : s.drawn.params = s.params := rfl
@[simp] theorem State.drawn_mem : s.drawn.mem = s.mem := rfl
@[simp] theorem State.drawn_mounts : s.drawn.mounts = s.mounts := rfl
@[simp] theorem State.drawn_turns : s.drawn.turns = s.turns := rfl
@[simp] theorem State.drawn_calls : s.drawn.calls = s.calls := rfl
@[simp] theorem State.drawn_defers : s.drawn.defers = s.defers := rfl
@[simp] theorem State.drawn_draws : s.drawn.draws = s.draws + 1 := rfl
@[simp] theorem State.drawn_trace : s.drawn.trace = s.trace := rfl
end

/-! Flags see only P. -/

section
variable (f : Flag) (s : State)
@[simp] theorem flag_setA (v : Byte) : flag f (s.setA v) = flag f s := rfl
@[simp] theorem flag_setX (v : Byte) : flag f (s.setX v) = flag f s := rfl
@[simp] theorem flag_setY (v : Byte) : flag f (s.setY v) = flag f s := rfl
@[simp] theorem flag_setSp (v : Byte) : flag f (s.setSp v) = flag f s := rfl
@[simp] theorem flag_setPc (v : Word) : flag f (s.setPc v) = flag f s := rfl
@[simp] theorem flag_setCyc (v : Nat) : flag f (s.setCyc v) = flag f s := rfl
@[simp] theorem flag_setNmi (v : Latch) : flag f (s.setNmi v) = flag f s := rfl
@[simp] theorem flag_setStatus (v : Status) : flag f (s.setStatus v) = flag f s := rfl
@[simp] theorem flag_setResetDone (v : Bool) : flag f (s.setResetDone v) = flag f s := rfl
@[simp] theorem flag_setPcLoaded (v : Bool) : flag f (s.setPcLoaded v) = flag f s := rfl
@[simp] theorem flag_setMem (v : Memory) : flag f (s.setMem v) = flag f s := rfl
@[simp] theorem flag_setMounts (v : List Mount) : flag f (s.setMounts v) = flag f s := rfl
@[simp] theorem flag_setTurns (v : List BusTurn) : flag f (s.setTurns v) = flag f s := rfl
@[simp] theorem flag_setCalls (v : List (List HostCall)) : flag f (s.setCalls v) = flag f s := rfl
@[simp] theorem flag_setDefers (v : List Bool) : flag f (s.setDefers v) = flag f s := rfl
@[simp] theorem flag_setDraws (v : Nat) : flag f (s.setDraws v) = flag f s := rfl
@[simp] theorem flag_setTrace (v : List BusOp) : flag f (s.setTrace v) = flag f s := rfl
@[simp] theorem flag_charge (n : Nat) : flag f (charge n s) = flag f s := rfl
@[simp] theorem flag_chargeBase (op : Byte) : flag f (chargeBase op s) = flag f s := rfl
@[simp] theorem flag_drawn : flag f s.drawn = flag f s := rfl
end

end Sys2Proof.Machine
end

