-- ==== Sys2Proof/Laws/Flags.lean ====
section
/-! SUPPORT. What setting a flag does to every flag (R13, R26, R29). -/

namespace Sys2Proof.Machine

theorem Flag.index_lt (f : Flag) : f.index < 8 := by cases f <;> decide

theorem Flag.index_inj {f g : Flag} (h : f.index = g.index) : f = g := by
  cases f <;> cases g <;> first | rfl | (simp [Flag.index] at h)

/-- A bit of `withBit`: the one written, or the old one. -/
theorem withBit_getLsbD (p : Byte) (k j : Nat) (b : Bool) (hj : j < 8) :
    (withBit p k b).getLsbD j = if j = k then b else p.getLsbD j := by
  unfold withBit
  by_cases h : j = k
  · subst h
    cases b <;> simp [hj]
  · have hk : ¬ j - k = 0 ∨ j < k := by omega
    cases b <;> simp [hj, h] <;> omega

theorem flag_setFlag (f g : Flag) (b : Bool) (s : State) :
    flag f (setFlag g b s) = if f = g then b else flag f s := by
  unfold flag
  rw [setFlag_p, withBit_getLsbD _ _ _ _ f.index_lt]
  by_cases h : f = g
  · simp [h]
  · have : f.index ≠ g.index := fun e => h (Flag.index_inj e)
    simp [h, this]

@[simp] theorem flag_setFlag_same (f : Flag) (b : Bool) (s : State) :
    flag f (setFlag f b s) = b := by simp [flag_setFlag]

theorem flag_setFlag_of_ne {f g : Flag} (h : f ≠ g) (b : Bool) (s : State) :
    flag f (setFlag g b s) = flag f s := by simp [flag_setFlag, h]

@[simp] theorem flag_n_setNZ (v : Byte) (s : State) : flag .n (setNZ v s) = v.getLsbD 7 := by
  simp [setNZ, flag_setFlag]

@[simp] theorem flag_z_setNZ (v : Byte) (s : State) : flag .z (setNZ v s) = (v == 0) := by
  simp [setNZ]

theorem flag_setNZ_of_ne {f : Flag} (hn : f ≠ .n) (hz : f ≠ .z) (v : Byte) (s : State) :
    flag f (setNZ v s) = flag f s := by simp [setNZ, flag_setFlag, hn, hz]

/-- Bit 7 of a byte as a comparison. -/
theorem getLsbD_seven (v : Byte) : v.getLsbD 7 = decide (128 ≤ v.toNat) := by
  rw [← BitVec.msb_eq_getLsbD_last (x := v), BitVec.msb_eq_decide]

/-- Two states with the same P show the same flags. -/
theorem flag_congr {s t : State} (h : t.p = s.p) (f : Flag) : flag f t = flag f s := by
  unfold flag; rw [h]

end Sys2Proof.Machine
end

