-- ==== Sys2Proof/Laws/Memory.lean ====
section
/-! SUPPORT. The laws of RAM contents: read after write, and the canonical form. -/

namespace Sys2Proof.Machine

theorem Memory.read_below {low : Nat} {m : Memory} (h : Memory.wfFrom low m = true) {cell : Nat}
    (hc : cell < low) : Memory.read m cell = unlistedByte := by
  induction m generalizing low with
  | nil => rfl
  | cons e rest ih =>
    obtain ⟨k, b⟩ := e
    simp only [Memory.wfFrom, Bool.and_eq_true, decide_eq_true_eq] at h
    obtain ⟨⟨⟨hl, _⟩, _⟩, hr⟩ := h
    simp only [Memory.read, if_neg (show ¬ k = cell by omega)]
    exact ih hr (by omega)

/-- A cell reads as what was last written to it. -/
theorem Memory.read_write_same {low : Nat} {m : Memory} (h : Memory.wfFrom low m = true)
    (cell : Nat) (v : Byte) : Memory.read (Memory.write m cell v) cell = v := by
  induction m generalizing low with
  | nil =>
    simp only [Memory.write]
    split
    · next hv => rw [hv]; rfl
    · simp [Memory.read]
  | cons e rest ih =>
    obtain ⟨k, b⟩ := e
    simp only [Memory.wfFrom, Bool.and_eq_true, decide_eq_true_eq] at h
    obtain ⟨⟨⟨_, _⟩, _⟩, hr⟩ := h
    simp only [Memory.write]
    by_cases h1 : cell < k
    · rw [if_pos h1]
      split
      · next hv =>
        rw [hv]
        simp only [Memory.read, if_neg (show ¬ k = cell by omega)]
        exact Memory.read_below hr (by omega)
      · simp [Memory.read]
    · rw [if_neg h1]
      by_cases h2 : cell = k
      · subst h2
        rw [if_pos rfl]
        split
        · next hv => rw [hv]; exact Memory.read_below hr (by omega)
        · simp [Memory.read]
      · rw [if_neg h2]
        simp only [Memory.read, if_neg (show ¬ k = cell by omega)]
        exact ih hr

/-- A write leaves every other cell alone. -/
theorem Memory.read_write_ne (m : Memory) {cell other : Nat} (h : other ≠ cell) (v : Byte) :
    Memory.read (Memory.write m cell v) other = Memory.read m other := by
  induction m with
  | nil =>
    simp only [Memory.write]
    split
    · rfl
    · simp [Memory.read, h.symm]
  | cons e rest ih =>
    obtain ⟨k, b⟩ := e
    simp only [Memory.write]
    split
    · split
      · rfl
      · simp [Memory.read, h.symm]
    · split
      · next h2 =>
        split
        · simp [Memory.read, ← h2, h.symm]
        · simp [Memory.read, ← h2, h.symm]
      · simp only [Memory.read, ih]

theorem Memory.write_wfFrom {low : Nat} {m : Memory} (h : Memory.wfFrom low m = true)
    {cell : Nat} (hl : low ≤ cell) (hc : cell < 65536) (v : Byte) :
    Memory.wfFrom low (Memory.write m cell v) = true := by
  induction m generalizing low with
  | nil =>
    simp only [Memory.write]
    split
    · rfl
    · next hv => simp [Memory.wfFrom, hl, hc, hv]
  | cons e rest ih =>
    obtain ⟨k, b⟩ := e
    simp only [Memory.wfFrom, Bool.and_eq_true, decide_eq_true_eq] at h
    obtain ⟨⟨⟨h1, h2⟩, h3⟩, hr⟩ := h
    simp only [Memory.write]
    split
    · next hk =>
      split
      · simp [Memory.wfFrom, h1, h2, h3, hr]
      · next hv =>
        have : cell + 1 ≤ k := hk
        simp [Memory.wfFrom, hl, hc, hv, this, h2, h3, hr]
    · next hk =>
      split
      · next he =>
        subst he
        split
        · cases rest with
          | nil => rfl
          | cons e2 r2 =>
            obtain ⟨k2, b2⟩ := e2
            simp only [Memory.wfFrom, Bool.and_eq_true, decide_eq_true_eq] at hr ⊢
            exact ⟨⟨⟨by omega, hr.1.1.2⟩, hr.1.2⟩, hr.2⟩
        · next hv => simp [Memory.wfFrom, hl, hc, hv, hr]
      · next he =>
        simp only [Memory.wfFrom, Bool.and_eq_true, decide_eq_true_eq]
        exact ⟨⟨⟨h1, h2⟩, h3⟩, ih hr (by omega)⟩

/-- Every write inside the 16-bit space keeps the canonical form. -/
theorem Memory.write_wf {m : Memory} (h : Memory.wf m = true) {cell : Nat} (hc : cell < 65536)
    (v : Byte) : Memory.wf (Memory.write m cell v) = true :=
  Memory.write_wfFrom h (Nat.zero_le _) hc v

/-- The RAM contents of `State.reset` are in canonical form. -/
theorem reset_mem_wf : State.reset.mem.wf = true := rfl

end Sys2Proof.Machine
end

