-- ==== Sys2Proof/Laws/Bus.lean ====
section
/-! SUPPORT. What sequencing and the bus transactions can do (R51 to R58): the lemmas other proofs
cite instead of unfolding them. -/

namespace Sys2Proof.Machine

/-! ### Sequencing -/

@[simp] theorem andThen_next {α β : Type} (a : α) (f : α → Out β) :
    andThen (Host.Outcome.next a) f = f a := rfl

@[simp] theorem andThen_fault {α β : Type} (r : Fault) (f : α → Out β) :
    andThen (Host.Outcome.fault r) f = .fault r := rfl

@[simp] theorem andThen_refused {α β : Type} (r : Refusal) (f : α → Out β) :
    andThen (Host.Outcome.refused r) f = .refused r := rfl

/-- A sequence answers a next state exactly when both parts do. -/
theorem andThen_eq_next {α β : Type} {o : Out α} {f : α → Out β} {b : β} :
    andThen o f = .next b ↔ ∃ a, o = .next a ∧ f a = .next b := by
  cases o <;> simp

theorem andThen_assoc {α β γ : Type} (o : Out α) (f : α → Out β) (g : β → Out γ) :
    andThen (andThen o f) g = andThen o fun a => andThen (f a) g := by
  cases o <;> rfl

/-! ### Quiet: what a transaction leaves alone -/

theorem EnvironmentKept.refl (s : State) : EnvironmentKept s s := ⟨rfl, rfl, rfl, rfl, rfl, rfl, rfl⟩

theorem EnvironmentKept.trans {s t u : State} (h : EnvironmentKept s t) (k : EnvironmentKept t u) :
    EnvironmentKept s u := by
  obtain ⟨h1, h2, h3, h4, h5, h6, h7⟩ := h
  obtain ⟨k1, k2, k3, k4, k5, k6, k7⟩ := k
  exact ⟨k1.trans h1, k2.trans h2, k3.trans h3, k4.trans h4, k5.trans h5, k6.trans h6, k7.trans h7⟩

theorem Quiet.refl (s : State) : Quiet s s :=
  ⟨rfl, rfl, rfl, rfl, rfl, rfl, rfl, EnvironmentKept.refl s⟩

theorem Quiet.trans {s t u : State} (h : Quiet s t) (k : Quiet t u) : Quiet s u := by
  obtain ⟨h1, h2, h3, h4, h5, h6, h7, h8⟩ := h
  obtain ⟨k1, k2, k3, k4, k5, k6, k7, k8⟩ := k
  exact ⟨k1.trans h1, k2.trans h2, k3.trans h3, k4.trans h4, k5.trans h5, k6.trans h6,
    k7.trans h7, h8.trans k8⟩

theorem Quiet.env {s t : State} (h : Quiet s t) : EnvironmentKept s t := h.2.2.2.2.2.2.2
theorem Quiet.a_eq {s t : State} (h : Quiet s t) : t.a = s.a := h.1
theorem Quiet.x_eq {s t : State} (h : Quiet s t) : t.x = s.x := h.2.1
theorem Quiet.y_eq {s t : State} (h : Quiet s t) : t.y = s.y := h.2.2.1
theorem Quiet.sp_eq {s t : State} (h : Quiet s t) : t.sp = s.sp := h.2.2.2.1
theorem Quiet.p_eq {s t : State} (h : Quiet s t) : t.p = s.p := h.2.2.2.2.1
theorem Quiet.pc_eq {s t : State} (h : Quiet s t) : t.pc = s.pc := h.2.2.2.2.2.1
theorem Quiet.cyc_eq {s t : State} (h : Quiet s t) : t.cyc = s.cyc := h.2.2.2.2.2.2.1

theorem EnvironmentKept.params_eq {s t : State} (h : EnvironmentKept s t) : t.params = s.params :=
  h.2.2.2.1
theorem EnvironmentKept.mounts_eq {s t : State} (h : EnvironmentKept s t) : t.mounts = s.mounts :=
  h.2.2.2.2.1

theorem mountAt_congr {s t : State} (h : t.mounts = s.mounts) (addr : Word) :
    mountAt t addr = mountAt s addr := by unfold mountAt; rw [h]

theorem mapped_of_mountAt {s : State} {addr : Word} {m : Mount} (h : mountAt s addr = some m) :
    Mapped s addr := by
  show (mountAt s addr).isSome = true
  rw [h]; rfl

/-- The cell of a mounted address depends on the device. -/
theorem cellOf_of_mountAt {s : State} {addr : Word} {m : Mount} (h : mountAt s addr = some m) :
    cellOf s addr = match m.device with
      | .ram mask => some (mountCell m mask addr)
      | .external => none := by
  obtain ⟨first, last, device⟩ := m; cases device <;> simp [cellOf, h]

theorem cellOf_congr {s t : State} (h : t.mounts = s.mounts) (addr : Word) :
    cellOf t addr = cellOf s addr := by unfold cellOf; rw [mountAt_congr h]

theorem ramByte_congr {s t : State} (h : t.mounts = s.mounts) (hm : t.mem = s.mem) (addr : Word) :
    ramByte t addr = ramByte s addr := by unfold ramByte; rw [cellOf_congr h, hm]

/-! ### Events -/

theorem interruptNmi_quiet (s : State) :
    Quiet s (interruptNmi s) ∧ (interruptNmi s).mem = s.mem ∧ (interruptNmi s).trace = s.trace ∧
      (interruptNmi s).turns = s.turns := by
  unfold interruptNmi
  split
  · split
    · exact ⟨Quiet.refl s, rfl, rfl, rfl⟩
    · exact ⟨Quiet.refl s, rfl, rfl, rfl⟩
  · exact ⟨Quiet.refl s, rfl, rfl, rfl⟩

theorem applyEvent_quiet (e : Event) (s : State) :
    Quiet s (applyEvent e s) ∧ (applyEvent e s).mem = s.mem ∧ (applyEvent e s).trace = s.trace ∧
      (applyEvent e s).turns = s.turns := by
  cases e
  · exact interruptNmi_quiet s
  · exact ⟨Quiet.refl s, rfl, rfl, rfl⟩

theorem applyEvents_quiet (es : List Event) (s : State) :
    Quiet s (applyEvents es s) ∧ (applyEvents es s).mem = s.mem ∧
      (applyEvents es s).trace = s.trace ∧ (applyEvents es s).turns = s.turns := by
  induction es generalizing s with
  | nil => exact ⟨Quiet.refl s, rfl, rfl, rfl⟩
  | cons e es ih =>
    obtain ⟨h1, h2, h3, h4⟩ := applyEvent_quiet e s
    obtain ⟨k1, k2, k3, k4⟩ := ih (applyEvent e s)
    exact ⟨h1.trans k1, k2.trans h2, k3.trans h3, k4.trans h4⟩

/-! ### Cells lie in the 16-bit space -/

theorem mountCell_lt {m : Mount} {mask addr : Word} (h : mountCovers m addr = true) :
    mountCell m mask addr < 65536 := by
  simp only [mountCovers, Bool.and_eq_true, decide_eq_true_eq, BitVec.le_def] at h
  unfold mountCell
  have h1 : ((addr - m.first) &&& mask).toNat ≤ (addr - m.first).toNat := by
    rw [BitVec.toNat_and]; exact Nat.and_le_left
  have h2 : (addr - m.first).toNat = addr.toNat - m.first.toNat := by
    rw [BitVec.toNat_sub]
    have := addr.isLt
    have := m.first.isLt
    omega
  have := addr.isLt
  omega

/-! ### Changes of RAM by other chips -/

theorem cellOf_lt {s : State} {addr : Word} {c : Nat} (h : cellOf s addr = some c) : c < 65536 := by
  unfold cellOf at h
  split at h
  · next m hm =>
    split at h
    · injection h with h
      rw [← h]
      refine mountCell_lt ?_
      have := List.find?_some hm
      exact this
    · cases h
  · cases h

/-- A change touches RAM alone. -/
theorem applyChange_quiet (c : CellChange) (s : State) :
    Quiet s (applyChange c s) ∧ (applyChange c s).nmi = s.nmi ∧ (applyChange c s).trace = s.trace ∧
      (applyChange c s).turns = s.turns := by
  unfold applyChange
  split <;> exact ⟨Quiet.refl s, rfl, rfl, rfl⟩

/-- Every byte reads as before whose cell the change does not name. -/
theorem applyChange_ramByte_other {c : CellChange} {s : State} {addr : Word}
    (h : cellOf s c.addr ≠ cellOf s addr) : ramByte (applyChange c s) addr = ramByte s addr := by
  unfold applyChange
  cases hc : cellOf s c.addr with
  | none => rfl
  | some cell =>
    show (cellOf s addr).map (s.mem.write cell c.byte).read = (cellOf s addr).map s.mem.read
    cases ha : cellOf s addr with
    | none => rfl
    | some other =>
      rw [hc, ha] at h
      have : other ≠ cell := fun e => h (by rw [e])
      simp [Memory.read_write_ne _ this]

/-- In canonical RAM the cell a change names reads as its byte. -/
theorem applyChange_ramByte_same {c : CellChange} {s : State} {addr : Word}
    (hw : s.mem.wf = true) (hc : (cellOf s c.addr).isSome = true)
    (he : cellOf s addr = cellOf s c.addr) : ramByte (applyChange c s) addr = some c.byte := by
  obtain ⟨cell, hc⟩ := Option.isSome_iff_exists.mp hc
  unfold applyChange
  rw [hc]
  show (cellOf s addr).map (s.mem.write cell c.byte).read = _
  rw [he, hc]
  simp [Memory.read_write_same hw]

theorem applyChange_wf {c : CellChange} {s : State} (hw : s.mem.wf = true) :
    (applyChange c s).mem.wf = true := by
  unfold applyChange
  cases hc : cellOf s c.addr with
  | none => exact hw
  | some cell => exact Memory.write_wf hw (cellOf_lt hc) c.byte

/-- A list of changes touches RAM alone, keeps its form, and leaves every byte it does not name. -/
theorem applyChanges_quiet (cs : List CellChange) (s : State) :
    Quiet s (applyChanges cs s) ∧ (applyChanges cs s).nmi = s.nmi ∧
      (applyChanges cs s).trace = s.trace ∧ (applyChanges cs s).turns = s.turns ∧
      (s.mem.wf = true → (applyChanges cs s).mem.wf = true) ∧
      ∀ addr, (∀ c ∈ cs, cellOf s c.addr ≠ cellOf s addr) →
        ramByte (applyChanges cs s) addr = ramByte s addr := by
  induction cs generalizing s with
  | nil => exact ⟨Quiet.refl s, rfl, rfl, rfl, id, fun _ _ => rfl⟩
  | cons c cs ih =>
    obtain ⟨h1, h2, h3, h4⟩ := applyChange_quiet c s
    obtain ⟨k1, k2, k3, k4, k5, k6⟩ := ih (applyChange c s)
    refine ⟨h1.trans k1, k2.trans h2, k3.trans h3, k4.trans h4,
      fun hw => k5 (applyChange_wf hw), fun addr ha => ?_⟩
    have hm : ∀ a, cellOf (applyChange c s) a = cellOf s a := cellOf_congr h1.env.mounts_eq
    refine (k6 addr fun c' hc' => ?_).trans
      (applyChange_ramByte_other (ha c (List.mem_cons_self ..)))
    rw [hm, hm]
    exact ha c' (List.mem_cons_of_mem _ hc')

theorem applyChanges_append (cs : List CellChange) (c : CellChange) (s : State) :
    applyChanges (cs ++ [c]) s = applyChange c (applyChanges cs s) := by
  simp [applyChanges, List.foldl_append]

/-! ### What completing a transaction does -/

/-- Bytes that no coming change names: the two states agree on the mounts and the coming turns. -/
theorem chipsLeave_congr {s t : State} (hm : t.mounts = s.mounts) (ht : t.turns = s.turns)
    {addr : Word} : ChipsLeave t addr ↔ ChipsLeave s addr := by
  unfold ChipsLeave
  rw [ht]
  simp only [cellOf_congr hm]

/-- A transaction that completes: only the latch, RAM, the turns and the record change; with no turn
left the latch does not; a byte that no coming change names does not; RAM stays canonical. -/
theorem completeTransaction_quiet (op : BusOp) (s : State) :
    Quiet s (completeTransaction op s) ∧
      (completeTransaction op s).trace = op :: s.trace ∧
      (completeTransaction op s).turns = s.turns.tail ∧
      (s.turns = [] → (completeTransaction op s).nmi = s.nmi) ∧
      (s.mem.wf = true → (completeTransaction op s).mem.wf = true) ∧
      ∀ addr, ChipsLeave s addr → ramByte (completeTransaction op s) addr = ramByte s addr := by
  unfold completeTransaction deliverTurn
  split
  · next h =>
    have h : s.turns = [] := h
    exact ⟨Quiet.refl s, rfl, by simp [h], fun _ => rfl, id, fun _ _ => rfl⟩
  · next t ts h =>
    have h : s.turns = t :: ts := h
    obtain ⟨c1, c2, c3, c4, c5, c6⟩ :=
      applyChanges_quiet t.changes ((s.setTrace (op :: s.trace)).setTurns ts)
    obtain ⟨k1, k2, k3, k4⟩ := applyEvents_quiet t.events
      (applyChanges t.changes ((s.setTrace (op :: s.trace)).setTurns ts))
    refine ⟨(show Quiet s ((s.setTrace (op :: s.trace)).setTurns ts) from Quiet.refl s).trans
      (c1.trans k1), k3.trans c3, by rw [k4, c4]; simp [h], fun e => by (rw [h] at e; cases e),
      fun hw => by rw [k2]; exact c5 hw, fun addr ha => ?_⟩
    refine (ramByte_congr k1.env.mounts_eq k2 addr).trans (c6 addr fun c hc => ?_)
    exact ha t (by rw [h]; exact List.mem_cons_self ..) c hc

/-! ### Reads -/

theorem drawForRead_quiet (m : Mount) (s : State) :
    Quiet s (drawForRead m s) ∧ (drawForRead m s).mem = s.mem ∧
      (drawForRead m s).trace = s.trace ∧ (drawForRead m s).turns = s.turns ∧
      (drawForRead m s).nmi = s.nmi := by
  unfold drawForRead
  split
  · exact ⟨Quiet.refl s, rfl, rfl, rfl, rfl⟩
  · exact ⟨Quiet.refl s, rfl, rfl, rfl, rfl⟩

/-- Everything a read that answers can have done (R52, R53). -/
theorem memRead_next {addr : Word} {s t : State} {v : Byte} (h : memRead addr s = .next (v, t)) :
    Mapped s addr ∧ Quiet s t ∧ t.trace = .rd addr :: s.trace ∧
      t.turns = s.turns.tail ∧ (s.turns = [] → t.nmi = s.nmi) ∧
      (s.mem.wf = true → t.mem.wf = true) ∧
      (∀ a, ChipsLeave s a → ramByte t a = ramByte s a) ∧
      (∀ b, ramByte s addr = some b → v = b) := by
  unfold memRead at h
  split at h
  · cases h
  · next m hm =>
    have hv : mountByte m addr s = v := by
      have := congrArg (fun o => match o with | Host.Outcome.next (w, _) => w | _ => v) h
      exact this
    have ht : completeTransaction (.rd addr) (drawForRead m s) = t := by
      have := congrArg (fun o => match o with | Host.Outcome.next (_, w) => w | _ => t) h
      exact this
    obtain ⟨k1, k2, k3, k4, k5⟩ := drawForRead_quiet m s
    obtain ⟨l1, l3, l4, l5, l6, l7⟩ := completeTransaction_quiet (.rd addr) (drawForRead m s)
    rw [ht] at l1 l3 l4 l5 l6 l7
    refine ⟨mapped_of_mountAt hm, k1.trans l1, by rw [l3, k3], by rw [l4, k4],
      fun e => (l5 (by rw [k4, e])).trans k5, fun hw => l6 (by rw [k2]; exact hw),
      fun a ha => (l7 a ((chipsLeave_congr k1.env.mounts_eq k4).mpr ha)).trans
        (ramByte_congr k1.env.mounts_eq k2 a), ?_⟩
    intro b hb
    rw [← hv]
    unfold ramByte at hb
    rw [cellOf_of_mountAt hm] at hb
    unfold mountByte
    cases hd : m.device <;> rw [hd] at hb
    · exact Option.some.inj hb
    · cases hb

/-- A read of a mapped address answers. -/
theorem memRead_mapped {addr : Word} {s : State} (h : Mapped s addr) :
    ∃ v t, memRead addr s = .next (v, t) := by
  unfold memRead
  obtain ⟨m, hm⟩ := Option.isSome_iff_exists.mp h
  rw [hm]
  exact ⟨_, _, rfl⟩

theorem mapped_of_cell {s : State} {addr : Word} (h : (cellOf s addr).isSome = true) :
    Mapped s addr := by
  unfold cellOf at h
  unfold Mapped
  split at h
  · next m hm => simp [hm]
  · cases h

theorem cell_of_ramByte {s : State} {addr : Word} {b : Byte} (h : ramByte s addr = some b) :
    (cellOf s addr).isSome = true := by
  unfold ramByte at h
  cases hc : cellOf s addr
  · rw [hc] at h; cases h
  · rfl

/-- A read of a RAM address answers the byte there. -/
theorem memRead_ram {addr : Word} {s : State} {b : Byte} (h : ramByte s addr = some b) :
    ∃ t, memRead addr s = .next (b, t) := by
  obtain ⟨v, t, hr⟩ := memRead_mapped (mapped_of_cell (cell_of_ramByte h))
  obtain ⟨_, _, _, _, _, _, _, hv⟩ := memRead_next hr
  rw [hv b h] at hr
  exact ⟨t, hr⟩

/-- A read of an unmapped address is a BusFault (R56). -/
theorem memRead_unmapped {addr : Word} {s : State} (h : mountAt s addr = none) :
    memRead addr s = .fault (.busFault addr (s.setStatus .faulted)) := by
  unfold memRead; rw [h]; rfl

/-! ### Writes -/

theorem mountStore_quiet (m : Mount) (addr : Word) (v : Byte) (s : State) :
    Quiet s (mountStore m addr v s) ∧ (mountStore m addr v s).trace = s.trace ∧
      (mountStore m addr v s).turns = s.turns ∧ (mountStore m addr v s).nmi = s.nmi := by
  unfold mountStore
  split <;> exact ⟨Quiet.refl s, rfl, rfl, rfl⟩

/-- The cells after the store, before the callback runs. -/
theorem mountStore_mem {m : Mount} {addr : Word} {v : Byte} {s : State}
    (hm : mountAt s addr = some m) : (mountStore m addr v s).mem =
      (match cellOf s addr with | some c => s.mem.write c v | none => s.mem) := by
  rw [cellOf_of_mountAt hm]
  unfold mountStore
  cases m.device <;> rfl

/-- Everything a write that answers can have done (R52, R53): in canonical RAM, and where no coming
change names it, the byte stored reads back; every byte of another cell is left. -/
theorem memWrite_next {addr : Word} {s t : State} {v : Byte} (h : memWrite addr v s = .next t) :
    Mapped s addr ∧ Quiet s t ∧ t.trace = .wr addr v :: s.trace ∧ t.turns = s.turns.tail ∧
      (s.turns = [] → t.nmi = s.nmi) ∧ (s.mem.wf = true → t.mem.wf = true) ∧
      (∀ a, cellOf s a ≠ cellOf s addr → ChipsLeave s a → ramByte t a = ramByte s a) ∧
      (s.mem.wf = true → (cellOf s addr).isSome = true → ∀ a, cellOf s a = cellOf s addr →
        ChipsLeave s a → ramByte t a = some v) := by
  unfold memWrite at h
  split at h
  · cases h
  · next m hm =>
    have ht : completeTransaction (.wr addr v) (mountStore m addr v s) = t := by
      injection h
    obtain ⟨k1, k2, k3, k4⟩ := mountStore_quiet m addr v s
    have kc : ∀ a, cellOf (mountStore m addr v s) a = cellOf s a := cellOf_congr k1.env.mounts_eq
    obtain ⟨l1, l3, l4, l5, l6, l7⟩ := completeTransaction_quiet (.wr addr v) (mountStore m addr v s)
    rw [ht] at l1 l3 l4 l5 l6 l7
    refine ⟨mapped_of_mountAt hm, k1.trans l1, by rw [l3, k2], by rw [l4, k3],
      fun e => (l5 (by rw [k3, e])).trans k4, fun hw => l6 ?_, fun a hne ha => ?_,
      fun hw hc a he ha => ?_⟩
    · rw [mountStore_mem hm]
      cases hc : cellOf s addr with
      | none => exact hw
      | some c => exact Memory.write_wf hw (cellOf_lt hc) v
    · rw [l7 a ((chipsLeave_congr k1.env.mounts_eq k3).mpr ha)]
      unfold ramByte
      rw [kc, mountStore_mem hm]
      cases ho : cellOf s a with
      | none => rfl
      | some c' =>
        cases hc : cellOf s addr with
        | none => rfl
        | some c =>
          rw [ho, hc] at hne
          have : c' ≠ c := fun e => hne (by rw [e])
          simp [Memory.read_write_ne _ this]
    · rw [l7 a ((chipsLeave_congr k1.env.mounts_eq k3).mpr ha)]
      obtain ⟨c, hc⟩ := Option.isSome_iff_exists.mp hc
      unfold ramByte
      rw [kc, mountStore_mem hm, he, hc]
      simp [Memory.read_write_same hw]

theorem memWrite_mapped {addr : Word} {s : State} (h : Mapped s addr) (v : Byte) :
    ∃ t, memWrite addr v s = .next t := by
  unfold memWrite
  obtain ⟨m, hm⟩ := Option.isSome_iff_exists.mp h
  rw [hm]
  exact ⟨_, rfl⟩

/-- A write to an unmapped address is a BusFault (R56). -/
theorem memWrite_unmapped {addr : Word} {s : State} (h : mountAt s addr = none) (v : Byte) :
    memWrite addr v s = .fault (.busFault addr (s.setStatus .faulted)) := by
  unfold memWrite; rw [h]; rfl

/-! ### The registers play no part in a transaction -/

/-- A state with the registers of another. -/
def State.withRegsOf (s u : State) : State :=
  { s with a := u.a, x := u.x, y := u.y, sp := u.sp, p := u.p, pc := u.pc }

theorem applyEvents_withRegsOf (es : List Event) (s u : State) :
    applyEvents es (s.withRegsOf u) = (applyEvents es s).withRegsOf u := by
  induction es generalizing s with
  | nil => rfl
  | cons e es ih =>
    refine Eq.trans ?_ (ih (applyEvent e s))
    show applyEvents es (applyEvent e (s.withRegsOf u)) = _
    congr 1
    cases e with
    | cancel => rfl
    | interrupt =>
      show interruptNmi (s.withRegsOf u) = (interruptNmi s).withRegsOf u
      cases h : s.nmi.pending <;> cases h2 : s.params.nmiReraise <;>
        simp [interruptNmi, State.withRegsOf, State.setNmi, h, h2]

theorem applyChanges_withRegsOf (cs : List CellChange) (s u : State) :
    applyChanges cs (s.withRegsOf u) = (applyChanges cs s).withRegsOf u := by
  induction cs generalizing s with
  | nil => rfl
  | cons c cs ih =>
    refine Eq.trans ?_ (ih (applyChange c s))
    show applyChanges cs (applyChange c (s.withRegsOf u)) = _
    congr 1
    unfold applyChange
    rw [show cellOf (s.withRegsOf u) c.addr = cellOf s c.addr from cellOf_congr rfl _]
    split <;> rfl

theorem completeTransaction_withRegsOf (op : BusOp) (s u : State) :
    completeTransaction op (s.withRegsOf u) = (completeTransaction op s).withRegsOf u := by
  unfold completeTransaction deliverTurn
  simp only [State.setTrace_turns]
  show (match s.turns with
    | [] => _
    | t :: ts => _) = _
  cases s.turns with
  | nil => rfl
  | cons t ts =>
    simp only
    rw [← applyEvents_withRegsOf, ← applyChanges_withRegsOf]
    rfl

/-- A read answers the same byte whatever the registers hold, and leaves them. -/
theorem memRead_withRegsOf {addr : Word} {s t : State} {v : Byte} (u : State)
    (h : memRead addr s = .next (v, t)) :
    memRead addr (s.withRegsOf u) = .next (v, t.withRegsOf u) := by
  unfold memRead at h ⊢
  rw [show mountAt (s.withRegsOf u) addr = mountAt s addr from rfl]
  cases hm : mountAt s addr with
  | none => rw [hm] at h; cases h
  | some m =>
    rw [hm] at h
    simp only [Host.Outcome.next.injEq, Prod.mk.injEq] at h ⊢
    obtain ⟨rfl, rfl⟩ := h
    refine ⟨by unfold mountByte; cases m.device <;> rfl, ?_⟩
    rw [← completeTransaction_withRegsOf]
    congr 1
    show (match m.device, s.turns with
      | .external, [] => _
      | _, _ => _) = _
    unfold drawForRead
    cases m.device <;> cases s.turns <;> rfl

/-- A write does the same whatever the registers hold, and leaves them. -/
theorem memWrite_withRegsOf {addr : Word} {s t : State} {v : Byte} (u : State)
    (h : memWrite addr v s = .next t) :
    memWrite addr v (s.withRegsOf u) = .next (t.withRegsOf u) := by
  unfold memWrite at h ⊢
  rw [show mountAt (s.withRegsOf u) addr = mountAt s addr from rfl]
  cases hm : mountAt s addr with
  | none => rw [hm] at h; cases h
  | some m =>
    rw [hm] at h
    simp only [Host.Outcome.next.injEq] at h ⊢
    subst h
    rw [← completeTransaction_withRegsOf]
    congr 1
    unfold mountStore
    cases m.device <;> rfl

end Sys2Proof.Machine
end

