-- ==== Sys2Proof/Laws/Decode.lean ====
section
/-! SUPPORT. What the opcode matrix gives for a first byte (R80 to R84): the byte itself, the mnemonic
and the operand bytes of its entry, and how words are put together and taken apart. -/

namespace Sys2Proof

/-! ### Byte order -/

theorem wordOf_toNat (hi lo : Byte) : (wordOf hi lo).toNat = hi.toNat * 256 + lo.toNat := by
  unfold wordOf
  rw [BitVec.toNat_append]
  have := lo.isLt
  rw [← Nat.shiftLeft_add_eq_or_of_lt (by omega), Nat.shiftLeft_eq]

theorem lowByte_toNat (w : Word) : (lowByte w).toNat = w.toNat % 256 := by
  unfold lowByte
  rw [BitVec.extractLsb'_toNat]
  simp

theorem highByte_toNat (w : Word) : (highByte w).toNat = w.toNat / 256 := by
  unfold highByte
  rw [BitVec.extractLsb'_toNat, Nat.shiftRight_eq_div_pow]
  have := w.isLt
  omega

@[simp] theorem wordOf_bytes (w : Word) : wordOf (highByte w) (lowByte w) = w := by
  apply BitVec.eq_of_toNat_eq
  rw [wordOf_toNat, lowByte_toNat, highByte_toNat]
  omega

@[simp] theorem lowByte_wordOf (hi lo : Byte) : lowByte (wordOf hi lo) = lo := by
  apply BitVec.eq_of_toNat_eq
  rw [lowByte_toNat, wordOf_toNat]
  have := lo.isLt
  omega

@[simp] theorem highByte_wordOf (hi lo : Byte) : highByte (wordOf hi lo) = hi := by
  apply BitVec.eq_of_toNat_eq
  rw [highByte_toNat, wordOf_toNat]
  have := lo.isLt
  omega

/-! ### One entry of the matrix -/

/-- Case split of a byte by row and column of the opcode matrix. -/
theorem byte_by_row_and_column {P : Byte → Prop}
    (h : ∀ r c, r < 16 → c < 16 → P (BitVec.ofNat 8 (r * 16 + c))) (op : Byte) : P op := by
  have k := h (op.toNat / 16) (op.toNat % 16) (by have := op.isLt; omega) (by omega)
  rwa [show op.toNat / 16 * 16 + op.toNat % 16 = op.toNat by omega, BitVec.ofNat_toNat,
    BitVec.setWidth_eq] at k

/-- An entry that reads none, the first, or both of the bytes after the opcode. -/
def EntryShape (entry : Byte → Byte → Instr) : Prop :=
  (∀ b1 b2, (entry b1 b2).operand.bytes = [] ∧ entry b1 b2 = entry 0 0) ∨
  (∀ b1 b2, (entry b1 b2).operand.bytes = [b1] ∧ entry b1 b2 = entry b1 0) ∨
  ∀ b1 b2, (entry b1 b2).operand.bytes = [b1, b2]

theorem two_bytes (b1 b2 : Byte) :
    [lowByte (wordOf b2 b1), highByte (wordOf b2 b1)] = [b1, b2] := by simp

theorem row0_shape {c : Nat} (hc : c < 16) : EntryShape (row0 c) := by
  interval_cases c
  · exact .inl fun _ _ => ⟨rfl, rfl⟩
  · exact .inr (.inl fun _ _ => ⟨rfl, rfl⟩)
  · exact .inl fun _ _ => ⟨rfl, rfl⟩
  · exact .inr (.inl fun _ _ => ⟨rfl, rfl⟩)
  · exact .inr (.inl fun _ _ => ⟨rfl, rfl⟩)
  · exact .inr (.inl fun _ _ => ⟨rfl, rfl⟩)
  · exact .inr (.inl fun _ _ => ⟨rfl, rfl⟩)
  · exact .inr (.inl fun _ _ => ⟨rfl, rfl⟩)
  · exact .inl fun _ _ => ⟨rfl, rfl⟩
  · exact .inr (.inl fun _ _ => ⟨rfl, rfl⟩)
  · exact .inl fun _ _ => ⟨rfl, rfl⟩
  · exact .inr (.inl fun _ _ => ⟨rfl, rfl⟩)
  · exact .inr (.inr fun x y => two_bytes x y)
  · exact .inr (.inr fun x y => two_bytes x y)
  · exact .inr (.inr fun x y => two_bytes x y)
  · exact .inr (.inr fun x y => two_bytes x y)

theorem row1_shape {c : Nat} (hc : c < 16) : EntryShape (row1 c) := by
  interval_cases c
  · exact .inr (.inl fun _ _ => ⟨rfl, rfl⟩)
  · exact .inr (.inl fun _ _ => ⟨rfl, rfl⟩)
  · exact .inl fun _ _ => ⟨rfl, rfl⟩
  · exact .inr (.inl fun _ _ => ⟨rfl, rfl⟩)
  · exact .inr (.inl fun _ _ => ⟨rfl, rfl⟩)
  · exact .inr (.inl fun _ _ => ⟨rfl, rfl⟩)
  · exact .inr (.inl fun _ _ => ⟨rfl, rfl⟩)
  · exact .inr (.inl fun _ _ => ⟨rfl, rfl⟩)
  · exact .inl fun _ _ => ⟨rfl, rfl⟩
  · exact .inr (.inr fun x y => two_bytes x y)
  · exact .inl fun _ _ => ⟨rfl, rfl⟩
  · exact .inr (.inr fun x y => two_bytes x y)
  · exact .inr (.inr fun x y => two_bytes x y)
  · exact .inr (.inr fun x y => two_bytes x y)
  · exact .inr (.inr fun x y => two_bytes x y)
  · exact .inr (.inr fun x y => two_bytes x y)

theorem row2_shape {c : Nat} (hc : c < 16) : EntryShape (row2 c) := by
  interval_cases c
  · exact .inr (.inr fun x y => two_bytes x y)
  · exact .inr (.inl fun _ _ => ⟨rfl, rfl⟩)
  · exact .inl fun _ _ => ⟨rfl, rfl⟩
  · exact .inr (.inl fun _ _ => ⟨rfl, rfl⟩)
  · exact .inr (.inl fun _ _ => ⟨rfl, rfl⟩)
  · exact .inr (.inl fun _ _ => ⟨rfl, rfl⟩)
  · exact .inr (.inl fun _ _ => ⟨rfl, rfl⟩)
  · exact .inr (.inl fun _ _ => ⟨rfl, rfl⟩)
  · exact .inl fun _ _ => ⟨rfl, rfl⟩
  · exact .inr (.inl fun _ _ => ⟨rfl, rfl⟩)
  · exact .inl fun _ _ => ⟨rfl, rfl⟩
  · exact .inr (.inl fun _ _ => ⟨rfl, rfl⟩)
  · exact .inr (.inr fun x y => two_bytes x y)
  · exact .inr (.inr fun x y => two_bytes x y)
  · exact .inr (.inr fun x y => two_bytes x y)
  · exact .inr (.inr fun x y => two_bytes x y)

theorem row3_shape {c : Nat} (hc : c < 16) : EntryShape (row3 c) := by
  interval_cases c
  · exact .inr (.inl fun _ _ => ⟨rfl, rfl⟩)
  · exact .inr (.inl fun _ _ => ⟨rfl, rfl⟩)
  · exact .inl fun _ _ => ⟨rfl, rfl⟩
  · exact .inr (.inl fun _ _ => ⟨rfl, rfl⟩)
  · exact .inr (.inl fun _ _ => ⟨rfl, rfl⟩)
  · exact .inr (.inl fun _ _ => ⟨rfl, rfl⟩)
  · exact .inr (.inl fun _ _ => ⟨rfl, rfl⟩)
  · exact .inr (.inl fun _ _ => ⟨rfl, rfl⟩)
  · exact .inl fun _ _ => ⟨rfl, rfl⟩
  · exact .inr (.inr fun x y => two_bytes x y)
  · exact .inl fun _ _ => ⟨rfl, rfl⟩
  · exact .inr (.inr fun x y => two_bytes x y)
  · exact .inr (.inr fun x y => two_bytes x y)
  · exact .inr (.inr fun x y => two_bytes x y)
  · exact .inr (.inr fun x y => two_bytes x y)
  · exact .inr (.inr fun x y => two_bytes x y)

theorem row4_shape {c : Nat} (hc : c < 16) : EntryShape (row4 c) := by
  interval_cases c
  · exact .inl fun _ _ => ⟨rfl, rfl⟩
  · exact .inr (.inl fun _ _ => ⟨rfl, rfl⟩)
  · exact .inl fun _ _ => ⟨rfl, rfl⟩
  · exact .inr (.inl fun _ _ => ⟨rfl, rfl⟩)
  · exact .inr (.inl fun _ _ => ⟨rfl, rfl⟩)
  · exact .inr (.inl fun _ _ => ⟨rfl, rfl⟩)
  · exact .inr (.inl fun _ _ => ⟨rfl, rfl⟩)
  · exact .inr (.inl fun _ _ => ⟨rfl, rfl⟩)
  · exact .inl fun _ _ => ⟨rfl, rfl⟩
  · exact .inr (.inl fun _ _ => ⟨rfl, rfl⟩)
  · exact .inl fun _ _ => ⟨rfl, rfl⟩
  · exact .inr (.inl fun _ _ => ⟨rfl, rfl⟩)
  · exact .inr (.inr fun x y => two_bytes x y)
  · exact .inr (.inr fun x y => two_bytes x y)
  · exact .inr (.inr fun x y => two_bytes x y)
  · exact .inr (.inr fun x y => two_bytes x y)

theorem row5_shape {c : Nat} (hc : c < 16) : EntryShape (row5 c) := by
  interval_cases c
  · exact .inr (.inl fun _ _ => ⟨rfl, rfl⟩)
  · exact .inr (.inl fun _ _ => ⟨rfl, rfl⟩)
  · exact .inl fun _ _ => ⟨rfl, rfl⟩
  · exact .inr (.inl fun _ _ => ⟨rfl, rfl⟩)
  · exact .inr (.inl fun _ _ => ⟨rfl, rfl⟩)
  · exact .inr (.inl fun _ _ => ⟨rfl, rfl⟩)
  · exact .inr (.inl fun _ _ => ⟨rfl, rfl⟩)
  · exact .inr (.inl fun _ _ => ⟨rfl, rfl⟩)
  · exact .inl fun _ _ => ⟨rfl, rfl⟩
  · exact .inr (.inr fun x y => two_bytes x y)
  · exact .inl fun _ _ => ⟨rfl, rfl⟩
  · exact .inr (.inr fun x y => two_bytes x y)
  · exact .inr (.inr fun x y => two_bytes x y)
  · exact .inr (.inr fun x y => two_bytes x y)
  · exact .inr (.inr fun x y => two_bytes x y)
  · exact .inr (.inr fun x y => two_bytes x y)

theorem row6_shape {c : Nat} (hc : c < 16) : EntryShape (row6 c) := by
  interval_cases c
  · exact .inl fun _ _ => ⟨rfl, rfl⟩
  · exact .inr (.inl fun _ _ => ⟨rfl, rfl⟩)
  · exact .inl fun _ _ => ⟨rfl, rfl⟩
  · exact .inr (.inl fun _ _ => ⟨rfl, rfl⟩)
  · exact .inr (.inl fun _ _ => ⟨rfl, rfl⟩)
  · exact .inr (.inl fun _ _ => ⟨rfl, rfl⟩)
  · exact .inr (.inl fun _ _ => ⟨rfl, rfl⟩)
  · exact .inr (.inl fun _ _ => ⟨rfl, rfl⟩)
  · exact .inl fun _ _ => ⟨rfl, rfl⟩
  · exact .inr (.inl fun _ _ => ⟨rfl, rfl⟩)
  · exact .inl fun _ _ => ⟨rfl, rfl⟩
  · exact .inr (.inl fun _ _ => ⟨rfl, rfl⟩)
  · exact .inr (.inr fun x y => two_bytes x y)
  · exact .inr (.inr fun x y => two_bytes x y)
  · exact .inr (.inr fun x y => two_bytes x y)
  · exact .inr (.inr fun x y => two_bytes x y)

theorem row7_shape {c : Nat} (hc : c < 16) : EntryShape (row7 c) := by
  interval_cases c
  · exact .inr (.inl fun _ _ => ⟨rfl, rfl⟩)
  · exact .inr (.inl fun _ _ => ⟨rfl, rfl⟩)
  · exact .inl fun _ _ => ⟨rfl, rfl⟩
  · exact .inr (.inl fun _ _ => ⟨rfl, rfl⟩)
  · exact .inr (.inl fun _ _ => ⟨rfl, rfl⟩)
  · exact .inr (.inl fun _ _ => ⟨rfl, rfl⟩)
  · exact .inr (.inl fun _ _ => ⟨rfl, rfl⟩)
  · exact .inr (.inl fun _ _ => ⟨rfl, rfl⟩)
  · exact .inl fun _ _ => ⟨rfl, rfl⟩
  · exact .inr (.inr fun x y => two_bytes x y)
  · exact .inl fun _ _ => ⟨rfl, rfl⟩
  · exact .inr (.inr fun x y => two_bytes x y)
  · exact .inr (.inr fun x y => two_bytes x y)
  · exact .inr (.inr fun x y => two_bytes x y)
  · exact .inr (.inr fun x y => two_bytes x y)
  · exact .inr (.inr fun x y => two_bytes x y)

theorem row8_shape {c : Nat} (hc : c < 16) : EntryShape (row8 c) := by
  interval_cases c
  · exact .inr (.inl fun _ _ => ⟨rfl, rfl⟩)
  · exact .inr (.inl fun _ _ => ⟨rfl, rfl⟩)
  · exact .inr (.inl fun _ _ => ⟨rfl, rfl⟩)
  · exact .inr (.inl fun _ _ => ⟨rfl, rfl⟩)
  · exact .inr (.inl fun _ _ => ⟨rfl, rfl⟩)
  · exact .inr (.inl fun _ _ => ⟨rfl, rfl⟩)
  · exact .inr (.inl fun _ _ => ⟨rfl, rfl⟩)
  · exact .inr (.inl fun _ _ => ⟨rfl, rfl⟩)
  · exact .inl fun _ _ => ⟨rfl, rfl⟩
  · exact .inr (.inl fun _ _ => ⟨rfl, rfl⟩)
  · exact .inl fun _ _ => ⟨rfl, rfl⟩
  · exact .inr (.inl fun _ _ => ⟨rfl, rfl⟩)
  · exact .inr (.inr fun x y => two_bytes x y)
  · exact .inr (.inr fun x y => two_bytes x y)
  · exact .inr (.inr fun x y => two_bytes x y)
  · exact .inr (.inr fun x y => two_bytes x y)

theorem row9_shape {c : Nat} (hc : c < 16) : EntryShape (row9 c) := by
  interval_cases c
  · exact .inr (.inl fun _ _ => ⟨rfl, rfl⟩)
  · exact .inr (.inl fun _ _ => ⟨rfl, rfl⟩)
  · exact .inl fun _ _ => ⟨rfl, rfl⟩
  · exact .inr (.inl fun _ _ => ⟨rfl, rfl⟩)
  · exact .inr (.inl fun _ _ => ⟨rfl, rfl⟩)
  · exact .inr (.inl fun _ _ => ⟨rfl, rfl⟩)
  · exact .inr (.inl fun _ _ => ⟨rfl, rfl⟩)
  · exact .inr (.inl fun _ _ => ⟨rfl, rfl⟩)
  · exact .inl fun _ _ => ⟨rfl, rfl⟩
  · exact .inr (.inr fun x y => two_bytes x y)
  · exact .inl fun _ _ => ⟨rfl, rfl⟩
  · exact .inr (.inr fun x y => two_bytes x y)
  · exact .inr (.inr fun x y => two_bytes x y)
  · exact .inr (.inr fun x y => two_bytes x y)
  · exact .inr (.inr fun x y => two_bytes x y)
  · exact .inr (.inr fun x y => two_bytes x y)

theorem rowA_shape {c : Nat} (hc : c < 16) : EntryShape (rowA c) := by
  interval_cases c
  · exact .inr (.inl fun _ _ => ⟨rfl, rfl⟩)
  · exact .inr (.inl fun _ _ => ⟨rfl, rfl⟩)
  · exact .inr (.inl fun _ _ => ⟨rfl, rfl⟩)
  · exact .inr (.inl fun _ _ => ⟨rfl, rfl⟩)
  · exact .inr (.inl fun _ _ => ⟨rfl, rfl⟩)
  · exact .inr (.inl fun _ _ => ⟨rfl, rfl⟩)
  · exact .inr (.inl fun _ _ => ⟨rfl, rfl⟩)
  · exact .inr (.inl fun _ _ => ⟨rfl, rfl⟩)
  · exact .inl fun _ _ => ⟨rfl, rfl⟩
  · exact .inr (.inl fun _ _ => ⟨rfl, rfl⟩)
  · exact .inl fun _ _ => ⟨rfl, rfl⟩
  · exact .inr (.inl fun _ _ => ⟨rfl, rfl⟩)
  · exact .inr (.inr fun x y => two_bytes x y)
  · exact .inr (.inr fun x y => two_bytes x y)
  · exact .inr (.inr fun x y => two_bytes x y)
  · exact .inr (.inr fun x y => two_bytes x y)

theorem rowB_shape {c : Nat} (hc : c < 16) : EntryShape (rowB c) := by
  interval_cases c
  · exact .inr (.inl fun _ _ => ⟨rfl, rfl⟩)
  · exact .inr (.inl fun _ _ => ⟨rfl, rfl⟩)
  · exact .inl fun _ _ => ⟨rfl, rfl⟩
  · exact .inr (.inl fun _ _ => ⟨rfl, rfl⟩)
  · exact .inr (.inl fun _ _ => ⟨rfl, rfl⟩)
  · exact .inr (.inl fun _ _ => ⟨rfl, rfl⟩)
  · exact .inr (.inl fun _ _ => ⟨rfl, rfl⟩)
  · exact .inr (.inl fun _ _ => ⟨rfl, rfl⟩)
  · exact .inl fun _ _ => ⟨rfl, rfl⟩
  · exact .inr (.inr fun x y => two_bytes x y)
  · exact .inl fun _ _ => ⟨rfl, rfl⟩
  · exact .inr (.inr fun x y => two_bytes x y)
  · exact .inr (.inr fun x y => two_bytes x y)
  · exact .inr (.inr fun x y => two_bytes x y)
  · exact .inr (.inr fun x y => two_bytes x y)
  · exact .inr (.inr fun x y => two_bytes x y)

theorem rowC_shape {c : Nat} (hc : c < 16) : EntryShape (rowC c) := by
  interval_cases c
  · exact .inr (.inl fun _ _ => ⟨rfl, rfl⟩)
  · exact .inr (.inl fun _ _ => ⟨rfl, rfl⟩)
  · exact .inr (.inl fun _ _ => ⟨rfl, rfl⟩)
  · exact .inr (.inl fun _ _ => ⟨rfl, rfl⟩)
  · exact .inr (.inl fun _ _ => ⟨rfl, rfl⟩)
  · exact .inr (.inl fun _ _ => ⟨rfl, rfl⟩)
  · exact .inr (.inl fun _ _ => ⟨rfl, rfl⟩)
  · exact .inr (.inl fun _ _ => ⟨rfl, rfl⟩)
  · exact .inl fun _ _ => ⟨rfl, rfl⟩
  · exact .inr (.inl fun _ _ => ⟨rfl, rfl⟩)
  · exact .inl fun _ _ => ⟨rfl, rfl⟩
  · exact .inr (.inl fun _ _ => ⟨rfl, rfl⟩)
  · exact .inr (.inr fun x y => two_bytes x y)
  · exact .inr (.inr fun x y => two_bytes x y)
  · exact .inr (.inr fun x y => two_bytes x y)
  · exact .inr (.inr fun x y => two_bytes x y)

theorem rowD_shape {c : Nat} (hc : c < 16) : EntryShape (rowD c) := by
  interval_cases c
  · exact .inr (.inl fun _ _ => ⟨rfl, rfl⟩)
  · exact .inr (.inl fun _ _ => ⟨rfl, rfl⟩)
  · exact .inl fun _ _ => ⟨rfl, rfl⟩
  · exact .inr (.inl fun _ _ => ⟨rfl, rfl⟩)
  · exact .inr (.inl fun _ _ => ⟨rfl, rfl⟩)
  · exact .inr (.inl fun _ _ => ⟨rfl, rfl⟩)
  · exact .inr (.inl fun _ _ => ⟨rfl, rfl⟩)
  · exact .inr (.inl fun _ _ => ⟨rfl, rfl⟩)
  · exact .inl fun _ _ => ⟨rfl, rfl⟩
  · exact .inr (.inr fun x y => two_bytes x y)
  · exact .inl fun _ _ => ⟨rfl, rfl⟩
  · exact .inr (.inr fun x y => two_bytes x y)
  · exact .inr (.inr fun x y => two_bytes x y)
  · exact .inr (.inr fun x y => two_bytes x y)
  · exact .inr (.inr fun x y => two_bytes x y)
  · exact .inr (.inr fun x y => two_bytes x y)

theorem rowE_shape {c : Nat} (hc : c < 16) : EntryShape (rowE c) := by
  interval_cases c
  · exact .inr (.inl fun _ _ => ⟨rfl, rfl⟩)
  · exact .inr (.inl fun _ _ => ⟨rfl, rfl⟩)
  · exact .inr (.inl fun _ _ => ⟨rfl, rfl⟩)
  · exact .inr (.inl fun _ _ => ⟨rfl, rfl⟩)
  · exact .inr (.inl fun _ _ => ⟨rfl, rfl⟩)
  · exact .inr (.inl fun _ _ => ⟨rfl, rfl⟩)
  · exact .inr (.inl fun _ _ => ⟨rfl, rfl⟩)
  · exact .inr (.inl fun _ _ => ⟨rfl, rfl⟩)
  · exact .inl fun _ _ => ⟨rfl, rfl⟩
  · exact .inr (.inl fun _ _ => ⟨rfl, rfl⟩)
  · exact .inl fun _ _ => ⟨rfl, rfl⟩
  · exact .inr (.inl fun _ _ => ⟨rfl, rfl⟩)
  · exact .inr (.inr fun x y => two_bytes x y)
  · exact .inr (.inr fun x y => two_bytes x y)
  · exact .inr (.inr fun x y => two_bytes x y)
  · exact .inr (.inr fun x y => two_bytes x y)

theorem rowF_shape {c : Nat} (hc : c < 16) : EntryShape (rowF c) := by
  interval_cases c
  · exact .inr (.inl fun _ _ => ⟨rfl, rfl⟩)
  · exact .inr (.inl fun _ _ => ⟨rfl, rfl⟩)
  · exact .inl fun _ _ => ⟨rfl, rfl⟩
  · exact .inr (.inl fun _ _ => ⟨rfl, rfl⟩)
  · exact .inr (.inl fun _ _ => ⟨rfl, rfl⟩)
  · exact .inr (.inl fun _ _ => ⟨rfl, rfl⟩)
  · exact .inr (.inl fun _ _ => ⟨rfl, rfl⟩)
  · exact .inr (.inl fun _ _ => ⟨rfl, rfl⟩)
  · exact .inl fun _ _ => ⟨rfl, rfl⟩
  · exact .inr (.inr fun x y => two_bytes x y)
  · exact .inl fun _ _ => ⟨rfl, rfl⟩
  · exact .inr (.inr fun x y => two_bytes x y)
  · exact .inr (.inr fun x y => two_bytes x y)
  · exact .inr (.inr fun x y => two_bytes x y)
  · exact .inr (.inr fun x y => two_bytes x y)
  · exact .inr (.inr fun x y => two_bytes x y)

theorem row0_opcode {c : Nat} (hc : c < 16) (b1 b2 : Byte) :
    (row0 c b1 b2).opcode = BitVec.ofNat 8 (0 + c) := by
  interval_cases c <;> rfl

theorem row1_opcode {c : Nat} (hc : c < 16) (b1 b2 : Byte) :
    (row1 c b1 b2).opcode = BitVec.ofNat 8 (16 + c) := by
  interval_cases c <;> rfl

theorem row2_opcode {c : Nat} (hc : c < 16) (b1 b2 : Byte) :
    (row2 c b1 b2).opcode = BitVec.ofNat 8 (32 + c) := by
  interval_cases c <;> rfl

theorem row3_opcode {c : Nat} (hc : c < 16) (b1 b2 : Byte) :
    (row3 c b1 b2).opcode = BitVec.ofNat 8 (48 + c) := by
  interval_cases c <;> rfl

theorem row4_opcode {c : Nat} (hc : c < 16) (b1 b2 : Byte) :
    (row4 c b1 b2).opcode = BitVec.ofNat 8 (64 + c) := by
  interval_cases c <;> rfl

theorem row5_opcode {c : Nat} (hc : c < 16) (b1 b2 : Byte) :
    (row5 c b1 b2).opcode = BitVec.ofNat 8 (80 + c) := by
  interval_cases c <;> rfl

theorem row6_opcode {c : Nat} (hc : c < 16) (b1 b2 : Byte) :
    (row6 c b1 b2).opcode = BitVec.ofNat 8 (96 + c) := by
  interval_cases c <;> rfl

theorem row7_opcode {c : Nat} (hc : c < 16) (b1 b2 : Byte) :
    (row7 c b1 b2).opcode = BitVec.ofNat 8 (112 + c) := by
  interval_cases c <;> rfl

theorem row8_opcode {c : Nat} (hc : c < 16) (b1 b2 : Byte) :
    (row8 c b1 b2).opcode = BitVec.ofNat 8 (128 + c) := by
  interval_cases c <;> rfl

theorem row9_opcode {c : Nat} (hc : c < 16) (b1 b2 : Byte) :
    (row9 c b1 b2).opcode = BitVec.ofNat 8 (144 + c) := by
  interval_cases c <;> rfl

theorem rowA_opcode {c : Nat} (hc : c < 16) (b1 b2 : Byte) :
    (rowA c b1 b2).opcode = BitVec.ofNat 8 (160 + c) := by
  interval_cases c <;> rfl

theorem rowB_opcode {c : Nat} (hc : c < 16) (b1 b2 : Byte) :
    (rowB c b1 b2).opcode = BitVec.ofNat 8 (176 + c) := by
  interval_cases c <;> rfl

theorem rowC_opcode {c : Nat} (hc : c < 16) (b1 b2 : Byte) :
    (rowC c b1 b2).opcode = BitVec.ofNat 8 (192 + c) := by
  interval_cases c <;> rfl

theorem rowD_opcode {c : Nat} (hc : c < 16) (b1 b2 : Byte) :
    (rowD c b1 b2).opcode = BitVec.ofNat 8 (208 + c) := by
  interval_cases c <;> rfl

theorem rowE_opcode {c : Nat} (hc : c < 16) (b1 b2 : Byte) :
    (rowE c b1 b2).opcode = BitVec.ofNat 8 (224 + c) := by
  interval_cases c <;> rfl

theorem rowF_opcode {c : Nat} (hc : c < 16) (b1 b2 : Byte) :
    (rowF c b1 b2).opcode = BitVec.ofNat 8 (240 + c) := by
  interval_cases c <;> rfl

/-! ### The whole matrix -/

theorem instrOf_shape (op : Byte) : EntryShape (instrOf op) := by
  have hc : op.toNat % 16 < 16 := Nat.mod_lt _ (by decide)
  unfold instrOf
  split
  · exact row0_shape hc
  · exact row1_shape hc
  · exact row2_shape hc
  · exact row3_shape hc
  · exact row4_shape hc
  · exact row5_shape hc
  · exact row6_shape hc
  · exact row7_shape hc
  · exact row8_shape hc
  · exact row9_shape hc
  · exact rowA_shape hc
  · exact rowB_shape hc
  · exact rowC_shape hc
  · exact rowD_shape hc
  · exact rowE_shape hc
  · exact rowF_shape hc

/-- The entry of a byte has that byte as its opcode. -/
theorem instrOf_opcode (op b1 b2 : Byte) : (instrOf op b1 b2).opcode = op := by
  have hc : op.toNat % 16 < 16 := Nat.mod_lt _ (by decide)
  have hop := op.isLt
  have back : ∀ {r : Nat}, op.toNat / 16 = r → BitVec.ofNat 8 (r * 16 + op.toNat % 16) = op := by
    intro r h
    rw [← h, show op.toNat / 16 * 16 + op.toNat % 16 = op.toNat by omega, BitVec.ofNat_toNat,
      BitVec.setWidth_eq]
  unfold instrOf
  split
  · next h => exact (row0_opcode hc b1 b2).trans (back h)
  · next h => exact (row1_opcode hc b1 b2).trans (back h)
  · next h => exact (row2_opcode hc b1 b2).trans (back h)
  · next h => exact (row3_opcode hc b1 b2).trans (back h)
  · next h => exact (row4_opcode hc b1 b2).trans (back h)
  · next h => exact (row5_opcode hc b1 b2).trans (back h)
  · next h => exact (row6_opcode hc b1 b2).trans (back h)
  · next h => exact (row7_opcode hc b1 b2).trans (back h)
  · next h => exact (row8_opcode hc b1 b2).trans (back h)
  · next h => exact (row9_opcode hc b1 b2).trans (back h)
  · next h => exact (rowA_opcode hc b1 b2).trans (back h)
  · next h => exact (rowB_opcode hc b1 b2).trans (back h)
  · next h => exact (rowC_opcode hc b1 b2).trans (back h)
  · next h => exact (rowD_opcode hc b1 b2).trans (back h)
  · next h => exact (rowE_opcode hc b1 b2).trans (back h)
  · simp only [imp_false] at *
    exact (rowF_opcode hc b1 b2).trans (back (r := 15) (by omega))

/-- The length of an entry does not depend on the bytes after the opcode (R80). -/
theorem instrOf_length (op b1 b2 : Byte) : (instrOf op b1 b2).length = (instrOf op 0 0).length := by
  unfold Instr.length
  rcases instrOf_shape op with h | h | h
  · rw [(h b1 b2).1, (h 0 0).1]
  · rw [(h b1 b2).1, (h 0 0).1]; rfl
  · rw [h b1 b2, h 0 0]; rfl

end Sys2Proof
end

