-- ==== Sys2Proof/Laws/Exec.lean ====
section
/-! SUPPORT. Which shape each instruction's meaning has: one lemma per shape, so that a proof about
an instruction is a proof about its handler. -/

namespace Sys2Proof.Machine

/-- The handler of an instruction that reads its operand. -/
def readingHandler : Mnemonic → Option (Byte → State → State)
  | .adc => some adcWith
  | .sbc => some sbcWith
  | .and => some andWith
  | .ora => some oraWith
  | .eor => some eorWith
  | .bit => some bitWith
  | .cmp => some cmpWith
  | .cpx => some cpxWith
  | .cpy => some cpyWith
  | .lda => some ldaWith
  | .ldx => some ldxWith
  | .ldy => some ldyWith
  | .aac => some aacWith
  | _ => none

/-- The handler of an instruction that ADMIT_UNNAMED_UNDOC admits. -/
def admittedHandler : Mnemonic → Option (Byte → State → State)
  | .asr => some asrWith
  | .arr => some arrWith
  | .axs => some axsWith
  | .lar => some larWith
  | .atx => some atxWith
  | .xaa => some xaaWith
  | _ => none

/-- The byte a storing instruction stores. -/
def storingValue : Mnemonic → Option (State → Byte)
  | .sta => some fun s => s.a
  | .stx => some fun s => s.x
  | .sty => some fun s => s.y
  | .sax => some fun s => s.a &&& s.x
  | _ => none

/-- The result and the flags of a read-modify-write instruction. -/
def modifying : Mnemonic → Option ((Byte → State → Byte) × (Byte → Byte → State → State))
  | .asl => some (aslResult, aslFlags)
  | .lsr => some (lsrResult, lsrFlags)
  | .rol => some (rolResult, rolFlags)
  | .ror => some (rorResult, rorFlags)
  | .inc => some (incResult, resultFlags)
  | .dec => some (decResult, resultFlags)
  | _ => none

/-- The two halves of a combined instruction. -/
def combining : Mnemonic → Option (Mnemonic × Mnemonic)
  | .slo => some (.asl, .ora)
  | .rla => some (.rol, .and)
  | .sre => some (.lsr, .eor)
  | .rra => some (.ror, .adc)
  | .dcp => some (.dec, .cmp)
  | .isb => some (.inc, .sbc)
  | _ => none

/-- The handler of an instruction with no operand and no transaction. -/
def impliedHandler : Mnemonic → Option (State → State)
  | .inx => some inx
  | .iny => some iny
  | .dex => some dex
  | .dey => some dey
  | .tax => some tax
  | .tay => some tay
  | .txa => some txa
  | .tya => some tya
  | .tsx => some tsx
  | .txs => some txs
  | .clc => some (setFlag .c false)
  | .sec => some (setFlag .c true)
  | .cli => some (setFlag .i false)
  | .sei => some (setFlag .i true)
  | .clv => some (setFlag .v false)
  | .cld => some (setFlag .d false)
  | .sed => some (setFlag .d true)
  | _ => none

/-- The handler of an instruction that uses the effective address itself. -/
def addressHandler : Mnemonic → Option (Word → State → Out State)
  | .bcc => some (branch .c false)
  | .bcs => some (branch .c true)
  | .beq => some (branch .z true)
  | .bmi => some (branch .n true)
  | .bne => some (branch .z false)
  | .bpl => some (branch .n false)
  | .bvc => some (branch .v false)
  | .bvs => some (branch .v true)
  | .jmp => some jump
  | .jsr => some jumpSubroutine
  | .nop => some nothingAt
  | _ => none

/-- The handler of an instruction with no operand that makes transactions. -/
def systemHandler : Mnemonic → Option (State → Out State)
  | .rts => some returnFromSubroutine
  | .pha => some pushA
  | .pla => some pullA
  | .php => some pushStatus
  | .plp => some pullStatus
  | .brk => some softwareInterrupt
  | .rti => some trapReturn
  | _ => none

/-- The destination of a read-modify-write instruction. -/
def operandDest : Operand → Option Dest
  | .accumulator => some .acc
  | .addressed m => some (.mem m)
  | .implied | .immediate _ => none

theorem exec_reading {i : Instr} {h : Byte → State → State} {src : Source}
    (hm : readingHandler i.mnemonic = some h) (hs : operandSource i.operand = some src) (s : State) :
    exec i s = readOp i.opcode src h s := by
  cases i <;> first
    | (cases hm; done)
    | (cases hm; cases hs; rfl)

theorem exec_admitted {i : Instr} {h : Byte → State → State} {src : Source}
    (hm : admittedHandler i.mnemonic = some h) (hs : operandSource i.operand = some src)
    (s : State) : exec i s = admittedOp i.opcode src h s := by
  cases i <;> first
    | (cases hm; done)
    | (cases hm; cases hs; rfl)

theorem exec_storing {i : Instr} {v : State → Byte} {m : AddrMode}
    (hm : storingValue i.mnemonic = some v) (hs : operandMode i.operand = some m) (s : State) :
    exec i s = storeOp i.opcode m v s := by
  cases i <;> first
    | (cases hm; done)
    | (cases hm; cases hs; rfl)

theorem exec_modifying {i : Instr} {r f} {d : Dest}
    (hm : modifying i.mnemonic = some (r, f)) (hs : operandDest i.operand = some d) (s : State) :
    exec i s = modifyOp i.opcode d r f s := by
  cases i <;> first
    | (cases hm; done)
    | (cases hm; cases hs; rfl)

theorem exec_combining {i : Instr} {m1 m2 : Mnemonic} {r f h} {m : AddrMode}
    (hm : combining i.mnemonic = some (m1, m2)) (h1 : modifying m1 = some (r, f))
    (h2 : readingHandler m2 = some h) (hs : operandMode i.operand = some m) (s : State) :
    exec i s = combinedOp i.opcode m r f h s := by
  cases i <;> first
    | (cases hm; done)
    | (cases hm; cases hs; cases h1; cases h2; rfl)

theorem exec_lax {i : Instr} {m : AddrMode} (hm : i.mnemonic = .lax)
    (hs : operandMode i.operand = some m) (s : State) :
    exec i s = twoReadsOp i.opcode m ldaWith ldxWith s := by
  cases i <;> first
    | (cases hm; done)
    | (cases hs; rfl)

theorem exec_implied {i : Instr} {h : State → State} (hm : impliedHandler i.mnemonic = some h)
    (s : State) : exec i s = impliedOp i.opcode h s := by
  cases i <;> first
    | (cases hm; done)
    | (cases hm; rfl)

theorem exec_nop {i : Instr} (hm : i.mnemonic = .nop) (hs : operandMode i.operand = none)
    (s : State) : exec i s = impliedOp i.opcode nothing s := by
  cases i <;> first
    | (cases hm; done)
    | (cases hs; done)
    | rfl

theorem exec_address {i : Instr} {h} {m : AddrMode} (hm : addressHandler i.mnemonic = some h)
    (hs : operandMode i.operand = some m) (s : State) : exec i s = addressOp i.opcode m h s := by
  cases i <;> first
    | (cases hm; done)
    | (cases hs; done)
    | (cases hm; cases hs; rfl)

theorem exec_system {i : Instr} {h} (hm : systemHandler i.mnemonic = some h) (s : State) :
    exec i s = systemOp i.opcode h s := by
  cases i <;> first
    | (cases hm; done)
    | (cases hm; rfl)

/-- The mnemonics refused whatever the parameters (R257 to R261). -/
def alwaysRefused : Mnemonic → Bool
  | .axa | .sxa | .sya | .xas | .kil => true
  | _ => false

theorem exec_refused {i : Instr} (hm : alwaysRefused i.mnemonic = true) (s : State) :
    exec i s = refuse i.opcode s := by
  cases i <;> first
    | (cases hm; done)
    | rfl

/-- The shapes, as a case split over all instructions. -/
theorem exec_shape (i : Instr) :
    (∃ h src, readingHandler i.mnemonic = some h ∧ operandSource i.operand = some src) ∨
    (∃ h src, admittedHandler i.mnemonic = some h ∧ operandSource i.operand = some src) ∨
    (∃ v m, storingValue i.mnemonic = some v ∧ operandMode i.operand = some m) ∨
    (∃ r f d, modifying i.mnemonic = some (r, f) ∧ operandDest i.operand = some d) ∨
    (∃ m1 m2 r f h m, combining i.mnemonic = some (m1, m2) ∧ modifying m1 = some (r, f) ∧
      readingHandler m2 = some h ∧ operandMode i.operand = some m) ∨
    (∃ m, i.mnemonic = .lax ∧ operandMode i.operand = some m) ∨
    (∃ h, impliedHandler i.mnemonic = some h) ∨
    (i.mnemonic = .nop ∧ operandMode i.operand = none) ∨
    (∃ h m, addressHandler i.mnemonic = some h ∧ operandMode i.operand = some m) ∨
    (∃ h, systemHandler i.mnemonic = some h) ∨
    alwaysRefused i.mnemonic = true := by
  cases i <;> first
    | exact .inl ⟨_, _, rfl, rfl⟩
    | exact .inr (.inl ⟨_, _, rfl, rfl⟩)
    | exact .inr (.inr (.inl ⟨_, _, rfl, rfl⟩))
    | exact .inr (.inr (.inr (.inl ⟨_, _, _, rfl, rfl⟩)))
    | exact .inr (.inr (.inr (.inr (.inl ⟨_, _, _, _, _, _, rfl, rfl, rfl, rfl⟩))))
    | exact .inr (.inr (.inr (.inr (.inr (.inl ⟨_, rfl, rfl⟩)))))
    | exact .inr (.inr (.inr (.inr (.inr (.inr (.inl ⟨_, rfl⟩))))))
    | exact .inr (.inr (.inr (.inr (.inr (.inr (.inr (.inl ⟨rfl, rfl⟩)))))))
    | exact .inr (.inr (.inr (.inr (.inr (.inr (.inr (.inr (.inl ⟨_, _, rfl, rfl⟩))))))))
    | exact .inr (.inr (.inr (.inr (.inr (.inr (.inr (.inr (.inr (.inl ⟨_, rfl⟩)))))))))
    | exact .inr (.inr (.inr (.inr (.inr (.inr (.inr (.inr (.inr (.inr rfl)))))))))

end Sys2Proof.Machine
end

