-- ==== Sys2Proof/Laws/Ops.lean ====
section
/-! SUPPORT. What the shared operations can do when they answer: stack, vectors, taking and leaving
an exception. Each lemma says it once, so that no later proof unfolds the operation. -/

namespace Sys2Proof.Machine

/-! ### Did: transactions made, addresses stored to, everything else of the environment kept -/

/-- From `s` to `t` exactly the transactions `ops` (newest first) were made and only the addresses
`stored` were stored to; the turns left are the last of the old ones, the rest of the environment is
kept, the latch too where no events come, and RAM stays canonical. Registers are said separately. -/
structure Did (ops : List BusOp) (stored : List Word) (s t : State) : Prop where
  env : EnvironmentKept s t
  trace : t.trace = ops ++ s.trace
  stored : StoredOnlyAt stored s t
  turns : t.turns <:+ s.turns
  nmi : s.turns = [] → t.nmi = s.nmi
  wf : s.mem.wf = true → t.mem.wf = true

theorem Did.refl (s : State) : Did [] [] s s :=
  ⟨EnvironmentKept.refl s, rfl, fun _ _ _ => rfl, List.suffix_refl _, fun _ => rfl, id⟩

theorem Did.events {ops : List BusOp} {l : List Word} {s t : State} (h : Did ops l s t)
    (e : s.turns = []) : t.turns = [] ∧ t.nmi = s.nmi :=
  ⟨List.suffix_nil.mp (e ▸ h.turns), h.nmi e⟩

/-- A byte that the coming turns leave is left by the turns still to come. -/
theorem Did.chipsLeave {ops : List BusOp} {l : List Word} {s t : State} (h : Did ops l s t)
    {addr : Word} (hc : ChipsLeave s addr) : ChipsLeave t addr := by
  intro turn ht c hch
  rw [cellOf_congr h.env.mounts_eq, cellOf_congr h.env.mounts_eq]
  exact hc turn (h.turns.subset ht) c hch

theorem Did.trans {o1 o2 : List BusOp} {l1 l2 : List Word} {s t u : State}
    (h : Did o1 l1 s t) (k : Did o2 l2 t u) : Did (o2 ++ o1) (l2 ++ l1) s u where
  env := h.env.trans k.env
  trace := by rw [k.trace, h.trace, List.append_assoc]
  stored addr ha hl := by
    have hc : ∀ e, cellOf t e = cellOf s e := fun e => cellOf_congr h.env.mounts_eq e
    rw [k.stored addr (fun e he => by rw [hc, hc]; exact ha e (List.mem_append_left _ he))
      (h.chipsLeave hl)]
    exact h.stored addr (fun e he => ha e (List.mem_append_right _ he)) hl
  turns := k.turns.trans h.turns
  nmi e := (k.nmi (h.events e).1).trans (h.nmi e)
  wf e := k.wf (h.wf e)

/-- A change of registers only. -/
theorem Did.regs {s t : State} (he : EnvironmentKept s t) (h1 : t.trace = s.trace)
    (h2 : t.mem = s.mem) (h3 : t.turns = s.turns) (h4 : t.nmi = s.nmi) : Did [] [] s t :=
  ⟨he, h1, fun addr _ _ => ramByte_congr he.mounts_eq h2 addr, h3 ▸ List.suffix_refl _,
    fun _ => h4, fun h => by rw [h2]; exact h⟩

theorem Did.ramByte_eq {ops : List BusOp} {s t : State} (h : Did ops [] s t) {addr : Word}
    (hc : ChipsLeave s addr) : ramByte t addr = ramByte s addr :=
  h.stored addr (fun _ he => by cases he) hc

theorem Did.cellOf_eq {ops : List BusOp} {l : List Word} {s t : State} (h : Did ops l s t)
    (addr : Word) : cellOf t addr = cellOf s addr := cellOf_congr h.env.mounts_eq addr

theorem Did.mountAt_eq {ops : List BusOp} {l : List Word} {s t : State} (h : Did ops l s t)
    (addr : Word) : mountAt t addr = mountAt s addr := mountAt_congr h.env.mounts_eq addr

theorem Did.mapped {ops : List BusOp} {l : List Word} {s t : State} (h : Did ops l s t)
    {addr : Word} (hm : Mapped s addr) : Mapped t addr := by
  unfold Mapped; rw [h.mountAt_eq]; exact hm

theorem Did.stackAddr_eq {ops : List BusOp} {l : List Word} {s t : State} (h : Did ops l s t)
    (sp : Byte) : stackAddr t sp = stackAddr s sp := by
  unfold stackAddr; rw [h.env.params_eq]

theorem Did.baseCycles_eq {ops : List BusOp} {l : List Word} {s t : State} (h : Did ops l s t)
    (op : Byte) : baseCycles t.params op = baseCycles s.params op := by rw [h.env.params_eq]

theorem Did.setA (s : State) (v : Byte) : Did [] [] s (s.setA v) :=
  Did.regs ⟨rfl, rfl, rfl, rfl, rfl, rfl, rfl⟩ rfl rfl rfl rfl
theorem Did.setX (s : State) (v : Byte) : Did [] [] s (s.setX v) :=
  Did.regs ⟨rfl, rfl, rfl, rfl, rfl, rfl, rfl⟩ rfl rfl rfl rfl
theorem Did.setY (s : State) (v : Byte) : Did [] [] s (s.setY v) :=
  Did.regs ⟨rfl, rfl, rfl, rfl, rfl, rfl, rfl⟩ rfl rfl rfl rfl
theorem Did.setSp (s : State) (v : Byte) : Did [] [] s (s.setSp v) :=
  Did.regs ⟨rfl, rfl, rfl, rfl, rfl, rfl, rfl⟩ rfl rfl rfl rfl
theorem Did.setP (s : State) (v : Byte) : Did [] [] s (s.setP v) :=
  Did.regs ⟨rfl, rfl, rfl, rfl, rfl, rfl, rfl⟩ rfl rfl rfl rfl
theorem Did.setFlag (s : State) (f : Flag) (b : Bool) : Did [] [] s (setFlag f b s) := Did.setP s _
theorem Did.setNZ (s : State) (v : Byte) : Did [] [] s (setNZ v s) :=
  Did.regs ⟨rfl, rfl, rfl, rfl, rfl, rfl, rfl⟩ rfl rfl rfl rfl
theorem Did.setPc (s : State) (v : Word) : Did [] [] s (s.setPc v) :=
  Did.regs ⟨rfl, rfl, rfl, rfl, rfl, rfl, rfl⟩ rfl rfl rfl rfl
theorem Did.charge (s : State) (n : Nat) : Did [] [] s (charge n s) :=
  Did.regs ⟨rfl, rfl, rfl, rfl, rfl, rfl, rfl⟩ rfl rfl rfl rfl
theorem Did.chargeBase (s : State) (op : Byte) : Did [] [] s (chargeBase op s) := Did.charge s _
theorem Did.drawn (s : State) : Did [] [] s s.drawn :=
  Did.regs ⟨rfl, rfl, rfl, rfl, rfl, rfl, rfl⟩ rfl rfl rfl rfl

theorem Did.frame {ops : List BusOp} {l : List Word} {s t : State} {rs : List Reg} {fs : List Flag}
    (h : Did ops l s t) (hr : RegsKept rs s t) (hf : FlagsKept fs s t) : Frame rs fs l s t :=
  ⟨hr, hf, h.stored, h.env, fun e => (h.events e).2⟩

theorem Quiet.regsKept {s t : State} (h : Quiet s t) : RegsKept [] s t := by
  intro r _
  cases r
  · exact h.a_eq
  · exact h.x_eq
  · exact h.y_eq
  · exact h.sp_eq

theorem Quiet.flag_eq {s t : State} (h : Quiet s t) (f : Flag) : flag f t = flag f s :=
  flag_congr h.p_eq f

/-! ### Transactions -/

/-- A read that answers. -/
theorem memRead_did {addr : Word} {s t : State} {v : Byte} (h : memRead addr s = .next (v, t)) :
    Quiet s t ∧ Did [.rd addr] [] s t ∧ (∀ b, ramByte s addr = some b → v = b) := by
  obtain ⟨_, h1, h2, h3, h4, h5, h6, h7⟩ := memRead_next h
  exact ⟨h1, ⟨h1.env, h2, fun a _ => h6 a, h3 ▸ List.tail_suffix _, h4, h5⟩, h7⟩

/-- A write that answers. -/
theorem memWrite_did {addr : Word} {s t : State} {v : Byte} (h : memWrite addr v s = .next t) :
    Quiet s t ∧ Did [.wr addr v] [addr] s t ∧
      (s.mem.wf = true → (cellOf s addr).isSome = true → ∀ other,
        cellOf s other = cellOf s addr → ChipsLeave s other → ramByte t other = some v) := by
  obtain ⟨_, h1, h2, h3, h4, h5, h6, h7⟩ := memWrite_next h
  exact ⟨h1, ⟨h1.env, h2, fun a ha => h6 a (ha addr (List.mem_singleton.mpr rfl)),
    h3 ▸ List.tail_suffix _, h4, h5⟩, h7⟩

/-- The addresses a list of transactions writes. -/
def writesOf : List BusOp → List Word
  | [] => []
  | .rd _ :: ops => writesOf ops
  | .wr addr _ :: ops => addr :: writesOf ops

/-- The address of a transaction. -/
def addrOf : BusOp → Word
  | .rd addr => addr
  | .wr addr _ => addr

@[simp] theorem transact_nil_eq {s t : State} {vs : List Byte} :
    transact [] s = .next (vs, t) ↔ vs = [] ∧ t = s := by
  simp only [transact, Host.Outcome.next.injEq, Prod.mk.injEq]
  exact ⟨fun ⟨h, k⟩ => ⟨h.symm, k.symm⟩, fun ⟨h, k⟩ => ⟨h.symm, k.symm⟩⟩

theorem transact_rd_eq {addr : Word} {ops : List BusOp} {s t : State} {vs : List Byte} :
    transact (.rd addr :: ops) s = .next (vs, t) ↔
      ∃ v ws s1, memRead addr s = .next (v, s1) ∧ transact ops s1 = .next (ws, t) ∧
        vs = v :: ws := by
  constructor
  · intro h
    obtain ⟨⟨v, s1⟩, h1, h2⟩ := andThen_eq_next.mp h
    obtain ⟨⟨ws, s2⟩, h3, h4⟩ := andThen_eq_next.mp h2
    injection h4 with h4
    injection h4 with h4 h5
    subst h5
    exact ⟨v, ws, s1, h1, h3, h4.symm⟩
  · rintro ⟨v, ws, s1, h1, h2, rfl⟩
    simp only [transact, h1, h2, andThen_next]

theorem transact_wr_eq {addr : Word} {b : Byte} {ops : List BusOp} {s t : State}
    {vs : List Byte} :
    transact (.wr addr b :: ops) s = .next (vs, t) ↔
      ∃ s1, memWrite addr b s = .next s1 ∧ transact ops s1 = .next (vs, t) := andThen_eq_next

/-- How many of a list of transactions are reads. -/
def readCount : List BusOp → Nat
  | [] => 0
  | .rd _ :: ops => readCount ops + 1
  | .wr _ _ :: ops => readCount ops

theorem transact_length {ops : List BusOp} {vs : List Byte} {s t : State}
    (h : transact ops s = .next (vs, t)) : vs.length = readCount ops := by
  induction ops generalizing s vs with
  | nil => obtain ⟨rfl, _⟩ := transact_nil_eq.mp h; rfl
  | cons op ops ih =>
    cases op with
    | rd addr =>
      obtain ⟨v, ws, s1, _, h2, rfl⟩ := transact_rd_eq.mp h
      simp [readCount, ih h2]
    | wr addr v =>
      obtain ⟨s1, _, h2⟩ := transact_wr_eq.mp h
      exact ih h2

/-- Transactions in two parts. -/
theorem transact_append {ops ops' : List BusOp} {s u : State} {vs : List Byte} :
    transact (ops ++ ops') s = .next (vs, u) ↔
      ∃ ws ws' t, transact ops s = .next (ws, t) ∧ transact ops' t = .next (ws', u) ∧
        vs = ws ++ ws' := by
  induction ops generalizing s vs with
  | nil => simp
  | cons op ops ih =>
    cases op with
    | rd addr =>
      simp only [List.cons_append, transact_rd_eq, ih]
      constructor
      · rintro ⟨v, _, s1, h1, ⟨ws, ws', t, h2, h3, rfl⟩, rfl⟩
        exact ⟨_, ws', t, ⟨v, ws, s1, h1, h2, rfl⟩, h3, rfl⟩
      · rintro ⟨_, ws', t, ⟨v, ws, s1, h1, h2, rfl⟩, h3, rfl⟩
        exact ⟨v, _, s1, h1, ⟨ws, ws', t, h2, h3, rfl⟩, rfl⟩
    | wr addr v =>
      simp only [List.cons_append, transact_wr_eq, ih]
      constructor
      · rintro ⟨s1, h1, ws, ws', t, h2, h3, e⟩
        exact ⟨ws, ws', t, ⟨s1, h1, h2⟩, h3, e⟩
      · rintro ⟨ws, ws', t, ⟨s1, h1, h2⟩, h3, e⟩
        exact ⟨s1, h1, ws, ws', t, h2, h3, e⟩

/-- Everything a list of transactions does. -/
theorem transact_did {ops : List BusOp} {vs : List Byte} {s t : State}
    (h : transact ops s = .next (vs, t)) :
    Quiet s t ∧ Did ops.reverse (writesOf ops).reverse s t := by
  induction ops generalizing s vs with
  | nil => obtain ⟨_, rfl⟩ := transact_nil_eq.mp h; exact ⟨Quiet.refl _, Did.refl _⟩
  | cons op ops ih =>
    cases op with
    | rd addr =>
      obtain ⟨v, ws, s1, h1, h2, _⟩ := transact_rd_eq.mp h
      obtain ⟨q1, d1, _⟩ := memRead_did h1
      obtain ⟨q2, d2⟩ := ih h2
      have d := d1.trans d2
      rw [List.append_nil, ← List.reverse_cons] at d
      exact ⟨q1.trans q2, d⟩
    | wr addr v =>
      obtain ⟨s1, h1, h2⟩ := transact_wr_eq.mp h
      obtain ⟨q1, d1, _⟩ := memWrite_did h1
      obtain ⟨q2, d2⟩ := ih h2
      have d := d1.trans d2
      rw [← List.reverse_cons, ← List.reverse_cons] at d
      exact ⟨q1.trans q2, d⟩

/-- A list of transactions whose addresses are all mapped completes. -/
theorem transact_mapped {ops : List BusOp} {s : State} (h : ∀ op ∈ ops, Mapped s (addrOf op)) :
    ∃ vs t, transact ops s = .next (vs, t) := by
  induction ops generalizing s with
  | nil => exact ⟨_, _, rfl⟩
  | cons op ops ih =>
    have here := h op (List.mem_cons_self ..)
    cases op with
    | rd addr =>
      obtain ⟨v, s1, h1⟩ := memRead_mapped here
      obtain ⟨vs, t, h2⟩ := ih (s := s1) fun o ho =>
        (memRead_did h1).2.1.mapped (h o (List.mem_cons_of_mem _ ho))
      exact ⟨_, t, transact_rd_eq.mpr ⟨v, vs, s1, h1, h2, rfl⟩⟩
    | wr addr v =>
      obtain ⟨s1, h1⟩ := memWrite_mapped here v
      obtain ⟨vs, t, h2⟩ := ih (s := s1) fun o ho =>
        (memWrite_did h1).2.1.mapped (h o (List.mem_cons_of_mem _ ho))
      exact ⟨vs, t, transact_wr_eq.mpr ⟨s1, h1, h2⟩⟩

/-! ### The same transactions whatever the registers hold -/

theorem Quiet.withRegsOf {s t : State} (h : Quiet s t) : t.withRegsOf s = t := by
  unfold State.withRegsOf
  rw [← h.a_eq, ← h.x_eq, ← h.y_eq, ← h.sp_eq, ← h.p_eq, ← h.pc_eq]

/-- A list of transactions does the same whatever the registers hold, and leaves them. -/
theorem transact_withRegsOf {ops : List BusOp} {vs : List Byte} {s t : State} (u : State)
    (h : transact ops s = .next (vs, t)) :
    transact ops (s.withRegsOf u) = .next (vs, t.withRegsOf u) := by
  induction ops generalizing s vs with
  | nil => obtain ⟨rfl, rfl⟩ := transact_nil_eq.mp h; rfl
  | cons op ops ih =>
    cases op with
    | rd addr =>
      obtain ⟨v, ws, s1, h1, h2, rfl⟩ := transact_rd_eq.mp h
      exact transact_rd_eq.mpr ⟨v, ws, _, memRead_withRegsOf u h1, ih h2, rfl⟩
    | wr addr v =>
      obtain ⟨s1, h1, h2⟩ := transact_wr_eq.mp h
      exact transact_wr_eq.mpr ⟨_, memWrite_withRegsOf u h1, ih h2⟩

theorem memRead_setSp {addr : Word} {s t : State} {v : Byte} (sp : Byte)
    (h : memRead addr s = .next (v, t)) : memRead addr (s.setSp sp) = .next (v, t.setSp sp) := by
  have := memRead_withRegsOf (s.setSp sp) h
  rw [← congrArg (State.setSp · sp) (memRead_did h).1.withRegsOf]
  exact this

theorem memWrite_setSp {addr : Word} {s t : State} {v : Byte} (sp : Byte)
    (h : memWrite addr v s = .next t) : memWrite addr v (s.setSp sp) = .next (t.setSp sp) := by
  have := memWrite_withRegsOf (s.setSp sp) h
  rw [← congrArg (State.setSp · sp) (memWrite_did h).1.withRegsOf]
  exact this

theorem memRead_setP {addr : Word} {s t : State} {v : Byte} (p : Byte)
    (h : memRead addr s = .next (v, t)) : memRead addr (s.setP p) = .next (v, t.setP p) := by
  have := memRead_withRegsOf (s.setP p) h
  rw [← congrArg (State.setP · p) (memRead_did h).1.withRegsOf]
  exact this

/-! ### The stack -/

/-- A push is one write, and SP counts down (R27). -/
theorem push8_eq {v : Byte} {s t : State} (h : memWrite (stackAddr s s.sp) v s = .next t) :
    push8 v s = .next (t.setSp (s.sp - 1)) := by
  unfold push8
  rw [h, andThen_next, (memWrite_did h).1.sp_eq]

/-- A pull is one read, and SP counts up (R27). -/
theorem pull8_eq {v : Byte} {s t : State}
    (h : memRead (stackAddr s (s.sp + 1)) s = .next (v, t)) :
    pull8 s = .next (v, t.setSp (s.sp + 1)) :=
  memRead_setSp (s.sp + 1) h

theorem push8_did {v : Byte} {s t : State} (h : push8 v s = .next t) :
    Quiet (s.setSp (s.sp - 1)) t ∧ Did [.wr (stackAddr s s.sp) v] [stackAddr s s.sp] s t ∧
      (s.mem.wf = true → (cellOf s (stackAddr s s.sp)).isSome = true → ∀ other,
        cellOf s other = cellOf s (stackAddr s s.sp) → ChipsLeave s other →
        ramByte t other = some v) := by
  unfold push8 at h
  obtain ⟨s1, h1, h2⟩ := andThen_eq_next.mp h
  injection h2 with h2
  subst h2
  obtain ⟨q, d, w⟩ := memWrite_did h1
  refine ⟨?_, d.trans (Did.setSp s1 _), w⟩
  exact ⟨q.a_eq, q.x_eq, q.y_eq, by simp [q.sp_eq], q.p_eq, q.pc_eq, q.cyc_eq, q.env⟩

theorem push8_mapped {s : State} (h : Mapped s (stackAddr s s.sp)) (v : Byte) :
    ∃ t, push8 v s = .next t := by
  obtain ⟨t, ht⟩ := memWrite_mapped h v
  exact ⟨_, push8_eq ht⟩

theorem pull8_did {v : Byte} {s t : State} (h : pull8 s = .next (v, t)) :
    Quiet (s.setSp (s.sp + 1)) t ∧ Did [.rd (stackAddr s (s.sp + 1))] [] s t ∧
      (∀ b, ramByte s (stackAddr s (s.sp + 1)) = some b → v = b) := by
  obtain ⟨q, d, w⟩ := memRead_did (s := s.setSp (s.sp + 1)) (addr := stackAddr s (s.sp + 1)) h
  exact ⟨q, (Did.setSp s _).trans d, w⟩

theorem pull8_mapped {s : State} (h : Mapped s (stackAddr s (s.sp + 1))) :
    ∃ v t, pull8 s = .next (v, t) :=
  memRead_mapped (s := s.setSp (s.sp + 1)) (addr := stackAddr s (s.sp + 1)) h

/-- Pushing a word is two writes. -/
theorem push16_eq {v : Word} {s t u : State}
    (h1 : memWrite (stackAddr s s.sp) (highByte v) s = .next t)
    (h2 : memWrite (stackAddr s (s.sp - 1)) (lowByte v) t = .next u) :
    push16 v s = .next (u.setSp (s.sp - 2)) := by
  have e : stackAddr (t.setSp (s.sp - 1)) (s.sp - 1) = stackAddr s (s.sp - 1) :=
    (memWrite_did h1).2.1.stackAddr_eq _
  have k : push8 (lowByte v) (t.setSp (s.sp - 1)) = _ :=
    push8_eq (by rw [State.setSp_sp, e]; exact memWrite_setSp (s.sp - 1) h2)
  unfold push16
  rw [push8_eq h1, andThen_next, k]
  simp only [State.setSp_sp, Host.Outcome.next.injEq]
  show u.setSp (s.sp - 1 - 1) = u.setSp (s.sp - 2)
  congr 1
  bv_omega

/-- Pulling a word is two reads. -/
theorem pull16_eq {lo hi : Byte} {s t u : State}
    (h1 : memRead (stackAddr s (s.sp + 1)) s = .next (lo, t))
    (h2 : memRead (stackAddr s (s.sp + 2)) t = .next (hi, u)) :
    pull16 s = .next (wordOf hi lo, u.setSp (s.sp + 2)) := by
  have hs : s.sp + 1 + 1 = s.sp + 2 := by bv_omega
  have e : stackAddr (t.setSp (s.sp + 1)) (s.sp + 2) = stackAddr s (s.sp + 2) :=
    (memRead_did h1).2.1.stackAddr_eq _
  have k : pull8 (t.setSp (s.sp + 1)) = _ :=
    pull8_eq (by rw [State.setSp_sp, hs, e]; exact memRead_setSp (s.sp + 1) h2)
  simp only [pull16, pull8_eq h1, k, andThen_next, State.setSp_sp, hs]
  rfl

theorem push16_did {v : Word} {s t : State} (h : push16 v s = .next t) :
    Quiet (s.setSp (s.sp - 2)) t ∧
      Did [.wr (stackAddr s (s.sp - 1)) (lowByte v), .wr (stackAddr s s.sp) (highByte v)]
        [stackAddr s (s.sp - 1), stackAddr s s.sp] s t ∧
      (s.mem.wf = true → DistinctCells s (stackAddr s s.sp) (stackAddr s (s.sp - 1)) →
        (ChipsLeave s (stackAddr s s.sp) →
          ramByte t (stackAddr s s.sp) = some (highByte v)) ∧
        (ChipsLeave s (stackAddr s (s.sp - 1)) →
          ramByte t (stackAddr s (s.sp - 1)) = some (lowByte v))) := by
  unfold push16 at h
  obtain ⟨s1, h1, h2⟩ := andThen_eq_next.mp h
  obtain ⟨q1, d1, w1⟩ := push8_did h1
  obtain ⟨q2, d2, w2⟩ := push8_did h2
  have hsp : s1.sp = s.sp - 1 := q1.sp_eq
  rw [d1.stackAddr_eq, hsp] at d2 w2
  have hs : s.sp - 1 - 1 = s.sp - 2 := by bv_omega
  refine ⟨⟨q2.a_eq.trans q1.a_eq, q2.x_eq.trans q1.x_eq, q2.y_eq.trans q1.y_eq, ?_,
    q2.p_eq.trans q1.p_eq, q2.pc_eq.trans q1.pc_eq, q2.cyc_eq.trans q1.cyc_eq,
    d1.env.trans d2.env⟩, d1.trans d2, ?_⟩
  · rw [q2.sp_eq]
    show s1.sp - 1 = s.sp - 2
    rw [hsp, hs]
  · intro hw ⟨c1, c2, hne⟩
    constructor
    · intro hc
      rw [d2.stored _ (fun e he => ?_) (d1.chipsLeave hc)]
      · exact w1 hw c1 _ rfl hc
      · rw [List.mem_singleton.mp he, d1.cellOf_eq, d1.cellOf_eq]; exact hne
    · exact fun hc => w2 (d1.wf hw) (by rw [d1.cellOf_eq]; exact c2) _ rfl (d1.chipsLeave hc)

theorem push16_mapped {s : State} (h1 : Mapped s (stackAddr s s.sp))
    (h2 : Mapped s (stackAddr s (s.sp - 1))) (v : Word) : ∃ t, push16 v s = .next t := by
  obtain ⟨s1, e1⟩ := memWrite_mapped h1 (highByte v)
  obtain ⟨t, e2⟩ := memWrite_mapped ((memWrite_did e1).2.1.mapped h2) (lowByte v)
  exact ⟨_, push16_eq e1 e2⟩

theorem pull16_did {v : Word} {s t : State} (h : pull16 s = .next (v, t)) :
    Quiet (s.setSp (s.sp + 2)) t ∧
      Did [.rd (stackAddr s (s.sp + 2)), .rd (stackAddr s (s.sp + 1))] [] s t ∧
      ∃ hi lo, v = wordOf hi lo ∧
        (∀ b, ramByte s (stackAddr s (s.sp + 1)) = some b → lo = b) ∧
        (ChipsLeave s (stackAddr s (s.sp + 2)) →
          ∀ b, ramByte s (stackAddr s (s.sp + 2)) = some b → hi = b) := by
  unfold pull16 at h
  obtain ⟨⟨lo, s1⟩, h1, h2⟩ := andThen_eq_next.mp h
  obtain ⟨⟨hi, s2⟩, h3, h4⟩ := andThen_eq_next.mp h2
  injection h4 with h4
  injection h4 with h4 h5
  subst h4 h5
  obtain ⟨q1, d1, w1⟩ := pull8_did h1
  obtain ⟨q2, d2, w2⟩ := pull8_did h3
  have hs : s.sp + 1 + 1 = s.sp + 2 := by bv_omega
  have hsp : s1.sp = s.sp + 1 := q1.sp_eq
  rw [d1.stackAddr_eq, hsp, hs] at d2 w2
  refine ⟨⟨q2.a_eq.trans q1.a_eq, q2.x_eq.trans q1.x_eq, q2.y_eq.trans q1.y_eq, ?_,
    q2.p_eq.trans q1.p_eq, q2.pc_eq.trans q1.pc_eq, q2.cyc_eq.trans q1.cyc_eq,
    d1.env.trans d2.env⟩, d1.trans d2, hi, lo, rfl, w1,
    fun hc b hb => w2 b (by rw [d1.ramByte_eq hc]; exact hb)⟩
  rw [q2.sp_eq]
  show s1.sp + 1 = s.sp + 2
  rw [hsp, hs]

theorem pull16_mapped {s : State} (h1 : Mapped s (stackAddr s (s.sp + 1)))
    (h2 : Mapped s (stackAddr s (s.sp + 2))) : ∃ v t, pull16 s = .next (v, t) := by
  obtain ⟨lo, s1, e1⟩ := memRead_mapped h1
  obtain ⟨hi, s2, e2⟩ := memRead_mapped ((memRead_did e1).2.1.mapped h2)
  exact ⟨_, _, pull16_eq e1 e2⟩

/-! ### Vectors, trap entry and trap return -/

/-- Loading a vector is two reads, low byte first. -/
theorem loadVector_eq {vec : Word} {lo hi : Byte} {s t : State}
    (h : transact [.rd vec, .rd (vec + 1)] s = .next ([lo, hi], t)) :
    loadVector vec s = .next (t.setPc (wordOf hi lo)) := by
  obtain ⟨v, _, s1, h1, h2, e1⟩ := transact_rd_eq.mp h
  obtain ⟨w, _, s2, h3, h4, rfl⟩ := transact_rd_eq.mp h2
  obtain ⟨rfl, rfl⟩ := transact_nil_eq.mp h4
  simp only [List.cons.injEq, and_true] at e1
  obtain ⟨rfl, rfl⟩ := e1
  simp only [loadVector, h1, h3, andThen_next]

theorem loadVector_did {vec : Word} {s t : State} (h : loadVector vec s = .next t) :
    ∃ hi lo, Quiet (s.setPc (wordOf hi lo)) t ∧ Did [.rd (vec + 1), .rd vec] [] s t ∧
      (∀ b, ramByte s vec = some b → lo = b) ∧
      (ChipsLeave s (vec + 1) → ∀ b, ramByte s (vec + 1) = some b → hi = b) := by
  unfold loadVector at h
  obtain ⟨⟨lo, s1⟩, h1, h2⟩ := andThen_eq_next.mp h
  obtain ⟨⟨hi, s2⟩, h3, h4⟩ := andThen_eq_next.mp h2
  injection h4 with h4
  subst h4
  obtain ⟨q1, d1, w1⟩ := memRead_did h1
  obtain ⟨q2, d2, w2⟩ := memRead_did h3
  have q := q1.trans q2
  refine ⟨hi, lo, ⟨q.a_eq, q.x_eq, q.y_eq, q.sp_eq, q.p_eq, rfl, q.cyc_eq, q.env⟩,
    (d1.trans d2).trans (Did.setPc s2 _), w1,
    fun hc b hb => w2 b (by rw [d1.ramByte_eq hc]; exact hb)⟩

theorem loadVector_mapped {vec : Word} {s : State} (h1 : Mapped s vec) (h2 : Mapped s (vec + 1)) :
    ∃ t, loadVector vec s = .next t := by
  obtain ⟨lo, s1, e1⟩ := memRead_mapped h1
  obtain ⟨_, d1, _⟩ := memRead_did e1
  obtain ⟨hi, s2, e2⟩ := memRead_mapped (d1.mapped h2)
  exact ⟨_, by unfold loadVector; rw [e1]; simp only [andThen_next]; rw [e2]; rfl⟩

/-- Taking an exception (R287) is three writes and two reads; SP, P.I and PC follow. -/
theorem trapEntry_eq {ret vec : Word} {p lo hi : Byte} {s u : State}
    (h : transact [.wr (stackAddr s s.sp) (highByte ret), .wr (stackAddr s (s.sp - 1)) (lowByte ret),
      .wr (stackAddr s (s.sp - 2)) p, .rd vec, .rd (vec + 1)] s = .next ([lo, hi], u)) :
    trapEntry ret p vec s =
      .next ((setFlag .i true (u.setSp (s.sp - 3))).setPc (wordOf hi lo)) := by
  obtain ⟨s1, h1, h2⟩ := transact_wr_eq.mp h
  obtain ⟨s2, h3, h4⟩ := transact_wr_eq.mp h2
  obtain ⟨s3, h5, h6⟩ := transact_wr_eq.mp h4
  have d2 := ((memWrite_did h1).2.1).trans (memWrite_did h3).2.1
  have hs : s.sp - 2 - 1 = s.sp - 3 := by bv_omega
  have e : stackAddr (s2.setSp (s.sp - 2)) (s.sp - 2) = stackAddr s (s.sp - 2) := d2.stackAddr_eq _
  have k : push8 p (s2.setSp (s.sp - 2)) = .next (s3.setSp (s.sp - 3)) := by
    rw [push8_eq (t := s3.setSp (s.sp - 2))
      (by rw [State.setSp_sp, e]; exact memWrite_setSp (s.sp - 2) h5), State.setSp_sp, hs]
    rfl
  have r : transact [.rd vec, .rd (vec + 1)] (setFlag .i true (s3.setSp (s.sp - 3))) =
      .next ([lo, hi], setFlag .i true (u.setSp (s.sp - 3))) := by
    have q := (transact_did h6).1
    have := transact_withRegsOf (setFlag .i true (s3.setSp (s.sp - 3))) h6
    have l : u.withRegsOf (setFlag .i true (s3.setSp (s.sp - 3))) =
        setFlag .i true ((u.withRegsOf s3).setSp (s.sp - 3)) := rfl
    rw [l, q.withRegsOf] at this
    exact this
  simp only [trapEntry, push16_eq h1 h3, k, loadVector_eq r, andThen_next]

/-- Taking an exception (R287): everything the entry does. -/
theorem trapEntry_did {ret vec : Word} {p : Byte} {s t : State}
    (h : trapEntry ret p vec s = .next t) :
    ∃ hi lo, Quiet ((setFlag .i true (s.setSp (s.sp - 3))).setPc (wordOf hi lo)) t ∧
      Did [.rd (vec + 1), .rd vec, .wr (stackAddr s (s.sp - 2)) p,
          .wr (stackAddr s (s.sp - 1)) (lowByte ret), .wr (stackAddr s s.sp) (highByte ret)]
        [stackAddr s (s.sp - 2), stackAddr s (s.sp - 1), stackAddr s s.sp] s t ∧
      ((∀ sp, cellOf s vec ≠ cellOf s (stackAddr s sp)) → ChipsLeave s vec →
        ∀ b, ramByte s vec = some b → lo = b) ∧
      ((∀ sp, cellOf s (vec + 1) ≠ cellOf s (stackAddr s sp)) → ChipsLeave s (vec + 1) →
        ∀ b, ramByte s (vec + 1) = some b → hi = b) ∧
      (s.mem.wf = true → StackInRam s → (∀ sp, ChipsLeave s (stackAddr s sp)) →
        ramByte t (stackAddr s s.sp) = some (highByte ret) ∧
        ramByte t (stackAddr s (s.sp - 1)) = some (lowByte ret) ∧
        ramByte t (stackAddr s (s.sp - 2)) = some p) := by
  unfold trapEntry at h
  obtain ⟨s1, h1, h2⟩ := andThen_eq_next.mp h
  obtain ⟨s2, h3, h4⟩ := andThen_eq_next.mp h2
  obtain ⟨q1, d1, w1⟩ := push16_did h1
  obtain ⟨q2, d2, w2⟩ := push8_did h3
  obtain ⟨hi, lo, q3, d3, r1, r2⟩ := loadVector_did h4
  have hsp : s1.sp = s.sp - 2 := q1.sp_eq
  rw [d1.stackAddr_eq, hsp] at d2 w2
  have hs : s.sp - 2 - 1 = s.sp - 3 := by bv_omega
  have d12 := d1.trans d2
  have dI := Did.setFlag s2 .i true
  have d123 := d12.trans (dI.trans d3)
  have e2 : ∀ a, ramByte (setFlag .i true s2) a = ramByte s2 a := fun a => rfl
  have vector : ∀ a, (∀ sp, cellOf s a ≠ cellOf s (stackAddr s sp)) → ChipsLeave s a →
      ramByte (setFlag .i true s2) a = ramByte s a := by
    intro a hne hc
    rw [e2, d12.stored _ (fun e he => ?_) hc]
    simp only [List.singleton_append, List.mem_cons, List.not_mem_nil, or_false] at he
    rcases he with rfl | rfl | rfl <;> exact hne _
  refine ⟨hi, lo, ⟨?_, ?_, ?_, ?_, ?_, ?_, ?_, d123.env⟩, d123,
    fun hne hc b hb => r1 b (by rw [vector _ hne hc]; exact hb),
    fun hne hc b hb => r2 ((d12.trans dI).chipsLeave hc) b (by rw [vector _ hne hc]; exact hb), ?_⟩
  · exact q3.a_eq.trans (q2.a_eq.trans q1.a_eq)
  · exact q3.x_eq.trans (q2.x_eq.trans q1.x_eq)
  · exact q3.y_eq.trans (q2.y_eq.trans q1.y_eq)
  · rw [q3.sp_eq]
    show s2.sp = s.sp - 3
    rw [q2.sp_eq]
    show s1.sp - 1 = s.sp - 3
    rw [hsp, hs]
  · have hp : s2.p = s.p := q2.p_eq.trans q1.p_eq
    rw [q3.p_eq]
    simp only [State.setPc_p, setFlag_p, State.setSp_p, hp]
  · exact q3.pc_eq
  · exact q3.cyc_eq.trans (q2.cyc_eq.trans q1.cyc_eq)
  · intro hw ⟨hin, hinj⟩ hc
    have n1 : cellOf s (stackAddr s s.sp) ≠ cellOf s (stackAddr s (s.sp - 1)) := by
      intro e; have := hinj _ _ e; bv_omega
    have n2 : cellOf s (stackAddr s s.sp) ≠ cellOf s (stackAddr s (s.sp - 2)) := by
      intro e; have := hinj _ _ e; bv_omega
    have n3 : cellOf s (stackAddr s (s.sp - 1)) ≠ cellOf s (stackAddr s (s.sp - 2)) := by
      intro e; have := hinj _ _ e; bv_omega
    obtain ⟨a1, a2⟩ := w1 hw ⟨hin _, hin _, n1⟩
    have a3 := w2 (d1.wf hw) (by rw [d1.cellOf_eq]; exact hin _) (stackAddr s (s.sp - 2)) rfl
      (d1.chipsLeave (hc _))
    have t2 : ∀ sp, ramByte t (stackAddr s sp) = ramByte s2 (stackAddr s sp) := fun sp => by
      rw [d3.ramByte_eq ((d12.trans dI).chipsLeave (hc sp)), e2]
    refine ⟨?_, ?_, by rw [t2]; exact a3⟩
    · rw [t2, d2.stored _ (fun e he => ?_) (d1.chipsLeave (hc _))]
      · exact a1 (hc _)
      · rw [List.mem_singleton.mp he, d1.cellOf_eq, d1.cellOf_eq]; exact n2
    · rw [t2, d2.stored _ (fun e he => ?_) (d1.chipsLeave (hc _))]
      · exact a2 (hc _)
      · rw [List.mem_singleton.mp he, d1.cellOf_eq, d1.cellOf_eq]; exact n3

theorem trapEntry_mapped {ret vec : Word} {p : Byte} {s : State}
    (h1 : Mapped s (stackAddr s s.sp)) (h2 : Mapped s (stackAddr s (s.sp - 1)))
    (h3 : Mapped s (stackAddr s (s.sp - 2))) (h4 : Mapped s vec) (h5 : Mapped s (vec + 1)) :
    ∃ t, trapEntry ret p vec s = .next t := by
  obtain ⟨s1, e1⟩ := push16_mapped h1 h2 ret
  obtain ⟨q1, d1, _⟩ := push16_did e1
  have hsp : s1.sp = s.sp - 2 := q1.sp_eq
  obtain ⟨s2, e2⟩ := push8_mapped (s := s1) (by rw [d1.stackAddr_eq, hsp]; exact d1.mapped h3) p
  obtain ⟨_, d2, _⟩ := push8_did e2
  have d := (d1.trans d2).trans (Did.setFlag s2 .i true)
  obtain ⟨t, e3⟩ := loadVector_mapped (d.mapped h4) (d.mapped h5)
  exact ⟨t, by
    unfold trapEntry; rw [e1]; simp only [andThen_next]; rw [e2]; simp only [andThen_next]; exact e3⟩

/-- Leaving an exception (R288) is three reads; SP, P and PC follow. -/
theorem trapReturn_eq {v lo hi : Byte} {s u : State}
    (h : transact [.rd (stackAddr s (s.sp + 1)), .rd (stackAddr s (s.sp + 2)),
      .rd (stackAddr s (s.sp + 3))] s = .next ([v, lo, hi], u)) :
    trapReturn s =
      .next (((u.setSp (s.sp + 3)).setP (restoredP v)).setPc (wordOf hi lo)) := by
  obtain ⟨v', _, s1, h1, h2, e1⟩ := transact_rd_eq.mp h
  obtain ⟨lo', _, s2, h3, h4, rfl⟩ := transact_rd_eq.mp h2
  obtain ⟨hi', _, s3, h5, h6, rfl⟩ := transact_rd_eq.mp h4
  obtain ⟨rfl, rfl⟩ := transact_nil_eq.mp h6
  simp only [List.cons.injEq, and_true] at e1
  obtain ⟨rfl, rfl, rfl⟩ := e1
  have k2 : s.sp + 1 + 1 = s.sp + 2 := by bv_omega
  have k3 : s.sp + 1 + 2 = s.sp + 3 := by bv_omega
  have e : ∀ sp, stackAddr ((s1.setSp (s.sp + 1)).setP (restoredP v)) sp = stackAddr s sp :=
    fun sp => (memRead_did h1).2.1.stackAddr_eq sp
  have k : pull16 ((s1.setSp (s.sp + 1)).setP (restoredP v)) = _ :=
    pull16_eq
      (by rw [e, State.setP_sp, State.setSp_sp, k2]
          exact memRead_setP (restoredP v) (memRead_setSp (s.sp + 1) h3))
      (by rw [e, State.setP_sp, State.setSp_sp, k3]
          exact memRead_setP (restoredP v) (memRead_setSp (s.sp + 1) h5))
  simp only [trapReturn, pull8_eq h1, k, andThen_next, State.setP_sp, State.setSp_sp, k3]
  rfl

/-- Leaving an exception (R288): everything the return does. -/
theorem trapReturn_did {s t : State} (h : trapReturn s = .next t) :
    ∃ v hi lo, Quiet (((s.setSp (s.sp + 3)).setP (restoredP v)).setPc (wordOf hi lo)) t ∧
      Did [.rd (stackAddr s (s.sp + 3)), .rd (stackAddr s (s.sp + 2)),
        .rd (stackAddr s (s.sp + 1))] [] s t ∧
      (∀ b, ramByte s (stackAddr s (s.sp + 1)) = some b → v = b) ∧
      (ChipsLeave s (stackAddr s (s.sp + 2)) →
        ∀ b, ramByte s (stackAddr s (s.sp + 2)) = some b → lo = b) ∧
      (ChipsLeave s (stackAddr s (s.sp + 3)) →
        ∀ b, ramByte s (stackAddr s (s.sp + 3)) = some b → hi = b) := by
  unfold trapReturn at h
  obtain ⟨⟨v, s1⟩, h1, h2⟩ := andThen_eq_next.mp h
  obtain ⟨⟨ret, s2⟩, h3, h4⟩ := andThen_eq_next.mp h2
  injection h4 with h4
  subst h4
  obtain ⟨q1, d1, w1⟩ := pull8_did h1
  obtain ⟨q2, d2, hi, lo, rfl, r1, r2⟩ := pull16_did h3
  have hsp : s1.sp = s.sp + 1 := q1.sp_eq
  have dP := d1.trans (Did.setP s1 (restoredP v))
  have e1 : ∀ a, ramByte (s1.setP (restoredP v)) a = ramByte s1 a := fun _ => rfl
  have e2 : ∀ a, stackAddr (s1.setP (restoredP v)) a = stackAddr s a := d1.stackAddr_eq
  have k2 : s.sp + 1 + 1 = s.sp + 2 := by bv_omega
  have k3 : s.sp + 1 + 2 = s.sp + 3 := by bv_omega
  simp only [State.setP_sp, hsp, e2, k2, k3] at d2 r1 r2
  refine ⟨v, hi, lo, ⟨?_, ?_, ?_, ?_, ?_, rfl, ?_, ?_⟩, dP.trans (d2.trans (Did.setPc s2 _)), w1,
    fun hc b hb => r1 b (by rw [e1, d1.ramByte_eq hc]; exact hb),
    fun hc b hb => r2 (dP.chipsLeave hc) b (by rw [e1, d1.ramByte_eq hc]; exact hb)⟩
  · exact q2.a_eq.trans q1.a_eq
  · exact q2.x_eq.trans q1.x_eq
  · exact q2.y_eq.trans q1.y_eq
  · show s2.sp = s.sp + 3
    rw [q2.sp_eq]
    show s1.sp + 2 = s.sp + 3
    rw [hsp, k3]
  · exact q2.p_eq
  · exact q2.cyc_eq.trans q1.cyc_eq
  · exact d1.env.trans d2.env

theorem trapReturn_mapped {s : State} (h1 : Mapped s (stackAddr s (s.sp + 1)))
    (h2 : Mapped s (stackAddr s (s.sp + 2))) (h3 : Mapped s (stackAddr s (s.sp + 3))) :
    ∃ t, trapReturn s = .next t := by
  obtain ⟨v, s1, e1⟩ := pull8_mapped h1
  obtain ⟨q1, d1, _⟩ := pull8_did e1
  have hsp : s1.sp = s.sp + 1 := q1.sp_eq
  have d := d1.trans (Did.setP s1 (restoredP v))
  have k2 : s.sp + 1 + 1 = s.sp + 2 := by bv_omega
  have k3 : s.sp + 1 + 2 = s.sp + 3 := by bv_omega
  obtain ⟨ret, s2, e2⟩ := pull16_mapped (s := s1.setP (restoredP v))
    (by rw [d.stackAddr_eq, State.setP_sp, hsp, k2]; exact d.mapped h2)
    (by rw [d.stackAddr_eq, State.setP_sp, hsp, k3]; exact d.mapped h3)
  exact ⟨_, by unfold trapReturn; rw [e1]; simp only [andThen_next]; rw [e2]; rfl⟩

end Sys2Proof.Machine
end

