-- ==== Sys2Proof/Laws/Operands.lean ====
section
/-! SUPPORT. What resolving an operand and the shapes of instruction can do (R100 to R115). -/

namespace Sys2Proof.Machine

theorem quiet_charge {s t : State} (h : Quiet s t) (n : Nat) : Quiet (charge n s) (charge n t) :=
  ⟨h.a_eq, h.x_eq, h.y_eq, h.sp_eq, h.p_eq, h.pc_eq, by simp [h.cyc_eq], h.env⟩

theorem zeroPagePointer_did {z : Byte} {s t : State} {ea : Word}
    (h : zeroPagePointer z s = .next (ea, t)) :
    ∃ hi lo, ea = wordOf hi lo ∧ Quiet s t ∧
      Did [.rd (zext16 (z + 1)), .rd (zext16 z)] [] s t ∧
      (∀ b, ramByte s (zext16 z) = some b → lo = b) ∧
      (ChipsLeave s (zext16 (z + 1)) → ∀ b, ramByte s (zext16 (z + 1)) = some b → hi = b) := by
  unfold zeroPagePointer at h
  obtain ⟨⟨lo, s1⟩, h1, h2⟩ := andThen_eq_next.mp h
  obtain ⟨⟨hi, s2⟩, h3, h4⟩ := andThen_eq_next.mp h2
  injection h4 with h4
  injection h4 with h4 h5
  subst h4 h5
  obtain ⟨q1, d1, w1⟩ := memRead_did h1
  obtain ⟨q2, d2, w2⟩ := memRead_did h3
  exact ⟨hi, lo, rfl, q1.trans q2, d1.trans d2, w1,
    fun hc b hb => w2 b (by rw [d1.ramByte_eq hc]; exact hb)⟩

theorem zeroPagePointer_mapped {z : Byte} {s : State} (h1 : Mapped s (zext16 z))
    (h2 : Mapped s (zext16 (z + 1))) : ∃ ea t, zeroPagePointer z s = .next (ea, t) := by
  obtain ⟨lo, s1, e1⟩ := memRead_mapped h1
  obtain ⟨_, d1, _⟩ := memRead_did e1
  obtain ⟨hi, s2, e2⟩ := memRead_mapped (d1.mapped h2)
  exact ⟨_, _, by unfold zeroPagePointer; rw [e1]; simp only [andThen_next]; rw [e2]; rfl⟩

theorem crossing_le (base ea : Word) : crossing base ea ≤ 1 := by
  unfold crossing; split <;> decide

/-- Everything the resolver does (R103): reads, and a surcharge of 0 or 1. -/
theorem resolve_did {m : AddrMode} {s t : State} {ea : Word} (h : resolve m s = .next (ea, t)) :
    ∃ n ops, n ≤ 1 ∧ Quiet (charge n s) t ∧ Did ops [] s t := by
  have plain : ∀ {n : Nat} {u : State}, n ≤ 1 → u = charge n s →
      ∃ n ops, n ≤ 1 ∧ Quiet (charge n s) u ∧ Did ops [] s u := by
    intro n u hn e
    subst e
    exact ⟨n, [], hn, Quiet.refl _, Did.charge s n⟩
  cases m with
  | zp z => injection h with h; injection h with _ h; exact plain (n := 0) (by decide) h.symm
  | zpx z => injection h with h; injection h with _ h; exact plain (n := 1) (by decide) h.symm
  | zpy z => injection h with h; injection h with _ h; exact plain (n := 1) (by decide) h.symm
  | abs z => injection h with h; injection h with _ h; exact plain (n := 0) (by decide) h.symm
  | abx z => injection h with h; injection h with _ h; exact plain (crossing_le _ _) h.symm
  | aby z => injection h with h; injection h with _ h; exact plain (crossing_le _ _) h.symm
  | rel z => injection h with h; injection h with _ h; exact plain (n := 0) (by decide) h.symm
  | ind ptr =>
    unfold resolve at h
    obtain ⟨⟨lo, s1⟩, h1, h2⟩ := andThen_eq_next.mp h
    obtain ⟨⟨hi, s2⟩, h3, h4⟩ := andThen_eq_next.mp h2
    injection h4 with h4
    injection h4 with h4 h5
    subst h5
    obtain ⟨q1, d1, _⟩ := memRead_did h1
    obtain ⟨q2, d2, _⟩ := memRead_did h3
    exact ⟨0, _, by decide, q1.trans q2, d1.trans d2⟩
  | izx z =>
    unfold resolve at h
    obtain ⟨⟨p, s1⟩, h1, h2⟩ := andThen_eq_next.mp h
    injection h2 with h2
    injection h2 with _ h2
    subst h2
    obtain ⟨_, _, _, q, d, _⟩ := zeroPagePointer_did h1
    exact ⟨1, _, by decide, quiet_charge q 1, d.trans (Did.charge s1 1)⟩
  | izy z =>
    unfold resolve at h
    obtain ⟨⟨p, s1⟩, h1, h2⟩ := andThen_eq_next.mp h
    injection h2 with h2
    injection h2 with _ h2
    subst h2
    obtain ⟨_, _, _, q, d, _⟩ := zeroPagePointer_did h1
    exact ⟨_, _, crossing_le _ _, quiet_charge q _, d.trans (Did.charge s1 _)⟩

/-- Where every address is mapped, every mode resolves. -/
theorem resolve_mapped {s : State} (h : FullyMapped s) (m : AddrMode) :
    ∃ ea t, resolve m s = .next (ea, t) := by
  cases m with
  | ind ptr =>
    obtain ⟨lo, s1, e1⟩ := memRead_mapped (h ptr)
    obtain ⟨_, d1, _⟩ := memRead_did e1
    obtain ⟨hi, s2, e2⟩ := memRead_mapped (d1.mapped (h (wordOf (highByte ptr) (lowByte ptr + 1))))
    exact ⟨_, _, by simp only [resolve, e1, andThen_next, e2]; rfl⟩
  | izx z =>
    obtain ⟨p, s1, e⟩ := zeroPagePointer_mapped (h (zext16 (z + s.x))) (h (zext16 (z + s.x + 1)))
    exact ⟨_, _, by simp only [resolve, e, andThen_next]; rfl⟩
  | izy z =>
    obtain ⟨p, s1, e⟩ := zeroPagePointer_mapped (h (zext16 z)) (h (zext16 (z + 1)))
    exact ⟨_, _, by simp only [resolve, e, andThen_next]; rfl⟩
  | _ => exact ⟨_, _, rfl⟩

/-- A read after a resolution keeps what the resolution says. -/
theorem quiet_after {n : Nat} {s t u : State} (h : Quiet (charge n s) t) (k : Quiet t u) :
    Quiet (charge n s) u := h.trans k

/-- Everything reading an operand does. -/
theorem readSource_did {src : Source} {s t : State} {v : Byte}
    (h : readSource src s = .next (v, t)) :
    ∃ n ops, n ≤ 1 ∧ Quiet (charge n s) t ∧ Did ops [] s t := by
  cases src with
  | imm b =>
    injection h with h; injection h with _ h; subst h
    exact ⟨0, [], by decide, Quiet.refl _, Did.refl s⟩
  | mem m =>
    obtain ⟨⟨ea, s1⟩, h1, h2⟩ := andThen_eq_next.mp h
    obtain ⟨n, ops, hn, q, d⟩ := resolve_did h1
    obtain ⟨q2, d2, _⟩ := memRead_did h2
    exact ⟨n, _, hn, quiet_after q q2, d.trans d2⟩

theorem readSource_mapped {s : State} (h : FullyMapped s) (src : Source) :
    ∃ v t, readSource src s = .next (v, t) := by
  cases src with
  | imm b => exact ⟨_, _, rfl⟩
  | mem m =>
    obtain ⟨ea, s1, e⟩ := resolve_mapped h m
    obtain ⟨_, _, _, _, d⟩ := resolve_did e
    obtain ⟨v, t, e2⟩ := memRead_mapped (d.mapped (h ea))
    exact ⟨v, t, by simp only [readSource]; rw [e]; exact e2⟩

/-- A reading instruction, its operand read. -/
theorem readOp_eq {op : Byte} {src : Source} {h : Byte → State → State} {s s1 : State} {m : Byte}
    (hr : readSource src s = .next (m, s1)) :
    readOp op src h s = .next (chargeBase op (h m s1)) := by
  unfold readOp; rw [hr]; rfl

/-- A storing instruction, its address resolved and mapped: one write. -/
theorem storeOp_eq {op : Byte} {m : AddrMode} {value : State → Byte} {s s1 s2 : State} {ea : Word}
    (hr : resolve m s = .next (ea, s1)) (hw : memWrite ea (value s1) s1 = .next s2) :
    storeOp op m value s = .next (chargeBase op s2) := by
  unfold storeOp; rw [hr]; simp only [andThen_next]; rw [hw]; rfl

/-- Read, compute, write back: the read answered, the write follows at the same mapped address. -/
theorem modifyAt_mem {ea : Word} {result : Byte → State → Byte}
    {flags : Byte → Byte → State → State} {s s1 : State} {v : Byte}
    (hr : memRead ea s = .next (v, s1)) :
    ∃ s2, memWrite ea (result v s1) s1 = .next s2 ∧
      modifyAt (.mem ea) result flags s = .next (flags v (result v s1) s2) := by
  obtain ⟨q, d, _⟩ := memRead_did hr
  obtain ⟨hm, _⟩ := memRead_next hr
  obtain ⟨s2, hw⟩ := memWrite_mapped (d.mapped hm) (result v s1)
  refine ⟨s2, hw, ?_⟩
  have hl : load (.mem ea) s = .next (v, s1) := hr
  have hs : store (.mem ea) (result v s1) s1 = .next s2 := hw
  unfold modifyAt
  rw [hl]; simp only [andThen_next]; rw [hs]; rfl

end Sys2Proof.Machine
end

