-- ==== Sys2Proof/Laws/Handlers.lean ====
section
/-! SUPPORT. What each handler changes (R22 to R29): one lemma per handler. -/

namespace Sys2Proof.Machine

/-- A handler's frame: registers and flags it may change, no transaction, PC and `cyc` as before. -/
structure Handled (rs : List Reg) (fs : List Flag) (s t : State) : Prop where
  regs : RegsKept rs s t
  flags : FlagsKept fs s t
  did : Did [] [] s t
  pc : t.pc = s.pc
  cyc : t.cyc = s.cyc

theorem flagsKept_of {fs : List Flag} {s t : State}
    (hc : .c ∉ fs → flag .c t = flag .c s) (hz : .z ∉ fs → flag .z t = flag .z s)
    (hi : .i ∉ fs → flag .i t = flag .i s) (hd : .d ∉ fs → flag .d t = flag .d s)
    (hb : .b ∉ fs → flag .b t = flag .b s) (hu : .u ∉ fs → flag .u t = flag .u s)
    (hv : .v ∉ fs → flag .v t = flag .v s) (hn : .n ∉ fs → flag .n t = flag .n s) :
    FlagsKept fs s t := by
  intro f hf
  cases f
  · exact hc hf
  · exact hz hf
  · exact hi hf
  · exact hd hf
  · exact hb hf
  · exact hu hf
  · exact hv hf
  · exact hn hf

theorem regsKept_of {rs : List Reg} {s t : State} (ha : .a ∉ rs → t.a = s.a)
    (hx : .x ∉ rs → t.x = s.x) (hy : .y ∉ rs → t.y = s.y) (hsp : .sp ∉ rs → t.sp = s.sp) :
    RegsKept rs s t := by
  intro r hr
  cases r
  · exact ha hr
  · exact hx hr
  · exact hy hr
  · exact hsp hr

theorem setNZ_handled (v : Byte) (s : State) : Handled [] [.n, .z] s (setNZ v s) where
  regs := regsKept_of (fun _ => rfl) (fun _ => rfl) (fun _ => rfl) (fun _ => rfl)
  flags f hf := by
    simp only [List.mem_cons, List.not_mem_nil, or_false, not_or] at hf
    exact flag_setNZ_of_ne hf.1 hf.2 v s
  did := Did.setNZ s v
  pc := rfl
  cyc := rfl

theorem setFlag_handled (f : Flag) (b : Bool) (s : State) : Handled [] [f] s (setFlag f b s) where
  regs := regsKept_of (fun _ => rfl) (fun _ => rfl) (fun _ => rfl) (fun _ => rfl)
  flags _g hg := flag_setFlag_of_ne (fun e => hg (List.mem_singleton.mpr e)) b s
  did := Did.setFlag s f b
  pc := rfl
  cyc := rfl

theorem adcWith_handled (m : Byte) (s : State) : Handled [.a] [.c, .v, .n, .z] s (adcWith m s) where
  regs := by apply regsKept_of <;> simp [adcWith]
  flags := by apply flagsKept_of <;> simp [adcWith, setNZ, flag_setFlag]
  did := ((((Did.setFlag s _ _).trans (Did.setFlag _ _ _)).trans (Did.setA _ _)).trans (Did.setNZ _ _))
  pc := rfl
  cyc := rfl

theorem sbcWith_handled (m : Byte) (s : State) : Handled [.a] [.c, .v, .n, .z] s (sbcWith m s) where
  regs := by apply regsKept_of <;> simp [sbcWith]
  flags := by apply flagsKept_of <;> simp [sbcWith, setNZ, flag_setFlag]
  did := ((((Did.setFlag s _ _).trans (Did.setFlag _ _ _)).trans (Did.setA _ _)).trans (Did.setNZ _ _))
  pc := rfl
  cyc := rfl

theorem andWith_handled (m : Byte) (s : State) : Handled [.a] [.n, .z] s (andWith m s) where
  regs := by apply regsKept_of <;> simp [andWith]
  flags := by apply flagsKept_of <;> simp [andWith, setNZ, flag_setFlag]
  did := (Did.setA _ _).trans (Did.setNZ _ _)
  pc := rfl
  cyc := rfl

theorem oraWith_handled (m : Byte) (s : State) : Handled [.a] [.n, .z] s (oraWith m s) where
  regs := by apply regsKept_of <;> simp [oraWith]
  flags := by apply flagsKept_of <;> simp [oraWith, setNZ, flag_setFlag]
  did := (Did.setA _ _).trans (Did.setNZ _ _)
  pc := rfl
  cyc := rfl

theorem eorWith_handled (m : Byte) (s : State) : Handled [.a] [.n, .z] s (eorWith m s) where
  regs := by apply regsKept_of <;> simp [eorWith]
  flags := by apply flagsKept_of <;> simp [eorWith, setNZ, flag_setFlag]
  did := (Did.setA _ _).trans (Did.setNZ _ _)
  pc := rfl
  cyc := rfl

theorem bitWith_handled (m : Byte) (s : State) : Handled [] [.z, .v, .n] s (bitWith m s) where
  regs := regsKept_of (fun _ => rfl) (fun _ => rfl) (fun _ => rfl) (fun _ => rfl)
  flags := by apply flagsKept_of <;> simp [bitWith, flag_setFlag]
  did := ((Did.setFlag _ _ _).trans (Did.setFlag _ _ _)).trans (Did.setFlag _ _ _)
  pc := rfl
  cyc := rfl

theorem compareWith_handled (r m : Byte) (s : State) :
    Handled [] [.c, .n, .z] s (compareWith r m s) where
  regs := regsKept_of (fun _ => rfl) (fun _ => rfl) (fun _ => rfl) (fun _ => rfl)
  flags := by apply flagsKept_of <;> simp [compareWith, setNZ, flag_setFlag]
  did := (Did.setFlag _ _ _).trans (Did.setNZ _ _)
  pc := rfl
  cyc := rfl

theorem ldaWith_handled (m : Byte) (s : State) : Handled [.a] [.n, .z] s (ldaWith m s) where
  regs := by apply regsKept_of <;> simp [ldaWith]
  flags := by apply flagsKept_of <;> simp [ldaWith, setNZ, flag_setFlag]
  did := (Did.setA _ _).trans (Did.setNZ _ _)
  pc := rfl
  cyc := rfl

theorem ldxWith_handled (m : Byte) (s : State) : Handled [.x] [.n, .z] s (ldxWith m s) where
  regs := by apply regsKept_of <;> simp [ldxWith]
  flags := by apply flagsKept_of <;> simp [ldxWith, setNZ, flag_setFlag]
  did := (Did.setX _ _).trans (Did.setNZ _ _)
  pc := rfl
  cyc := rfl

theorem ldyWith_handled (m : Byte) (s : State) : Handled [.y] [.n, .z] s (ldyWith m s) where
  regs := by apply regsKept_of <;> simp [ldyWith]
  flags := by apply flagsKept_of <;> simp [ldyWith, setNZ, flag_setFlag]
  did := (Did.setY _ _).trans (Did.setNZ _ _)
  pc := rfl
  cyc := rfl

theorem aacWith_handled (m : Byte) (s : State) : Handled [.a] [.c, .n, .z] s (aacWith m s) where
  regs := by apply regsKept_of <;> simp [aacWith, andWith]
  flags := by apply flagsKept_of <;> simp [aacWith, andWith, setNZ, flag_setFlag]
  did := ((Did.setA _ _).trans (Did.setNZ _ _)).trans (Did.setFlag _ _ _)
  pc := rfl
  cyc := rfl

theorem asrWith_handled (m : Byte) (s : State) : Handled [.a] [.c, .n, .z] s (asrWith m s) where
  regs := by apply regsKept_of <;> simp [asrWith, lsrFlags, andWith]
  flags := by apply flagsKept_of <;> simp [asrWith, lsrFlags, andWith, setNZ, flag_setFlag]
  did := ((((Did.setA _ _).trans (Did.setNZ _ _)).trans (Did.setA _ _)).trans
    (Did.setFlag _ _ _)).trans (Did.setNZ _ _)
  pc := rfl
  cyc := rfl

theorem arrWith_handled (m : Byte) (s : State) : Handled [.a] [.c, .v, .n, .z] s (arrWith m s) where
  regs := by apply regsKept_of <;> simp [arrWith]
  flags := by apply flagsKept_of <;> simp [arrWith, setNZ, flag_setFlag]
  did := (((Did.setA _ _).trans (Did.setNZ _ _)).trans (Did.setFlag _ _ _)).trans (Did.setFlag _ _ _)
  pc := rfl
  cyc := rfl

theorem axsWith_handled (m : Byte) (s : State) : Handled [.x] [.c, .n, .z] s (axsWith m s) where
  regs := by apply regsKept_of <;> simp [axsWith]
  flags := by apply flagsKept_of <;> simp [axsWith, setNZ, flag_setFlag]
  did := ((Did.setFlag _ _ _).trans (Did.setX _ _)).trans (Did.setNZ _ _)
  pc := rfl
  cyc := rfl

theorem larWith_handled (m : Byte) (s : State) : Handled [.a, .x, .sp] [.n, .z] s (larWith m s) where
  regs := by apply regsKept_of <;> simp [larWith]
  flags := by apply flagsKept_of <;> simp [larWith, setNZ, flag_setFlag]
  did := (((Did.setA _ _).trans (Did.setX _ _)).trans (Did.setSp _ _)).trans (Did.setNZ _ _)
  pc := rfl
  cyc := rfl

theorem atxWith_handled (m : Byte) (s : State) : Handled [.a, .x] [.n, .z] s (atxWith m s) where
  regs := by apply regsKept_of <;> simp [atxWith]
  flags := by apply flagsKept_of <;> simp [atxWith, setNZ, flag_setFlag]
  did := (((Did.drawn _).trans (Did.setA _ _)).trans (Did.setX _ _)).trans (Did.setNZ _ _)
  pc := rfl
  cyc := rfl

theorem xaaWith_handled (m : Byte) (s : State) : Handled [.a] [.n, .z] s (xaaWith m s) where
  regs := by apply regsKept_of <;> simp [xaaWith]
  flags := by apply flagsKept_of <;> simp [xaaWith, setNZ, flag_setFlag]
  did := ((Did.drawn _).trans (Did.setA _ _)).trans (Did.setNZ _ _)
  pc := rfl
  cyc := rfl

theorem shiftFlags_handled (b : Bool) (r : Byte) (s : State) :
    Handled [] [.c, .n, .z] s (setNZ r (setFlag .c b s)) where
  regs := regsKept_of (fun _ => rfl) (fun _ => rfl) (fun _ => rfl) (fun _ => rfl)
  flags := by apply flagsKept_of <;> simp [setNZ, flag_setFlag]
  did := (Did.setFlag _ _ _).trans (Did.setNZ _ _)
  pc := rfl
  cyc := rfl

theorem Handled.weaken {rs rs' : List Reg} {fs fs' : List Flag} {s t : State}
    (h : Handled rs fs s t) (hr : ∀ r, r ∈ rs → r ∈ rs') (hf : ∀ f, f ∈ fs → f ∈ fs') :
    Handled rs' fs' s t :=
  ⟨fun r k => h.regs r (fun e => k (hr r e)), fun f k => h.flags f (fun e => k (hf f e)), h.did,
    h.pc, h.cyc⟩

/-- Every reading handler stays inside the tables of R29 and of the registers' rules. -/
theorem readingHandler_handled {mn : Mnemonic} {h : Byte → State → State}
    (hm : readingHandler mn = some h) (m : Byte) (s : State) :
    Handled (writtenRegs mn) (writtenFlags mn) s (h m s) := by
  cases mn <;> simp only [readingHandler, reduceCtorEq, Option.some.injEq] at hm <;> subst hm
  · exact (oraWith_handled m s).weaken (by decide) (by decide)
  · exact (aacWith_handled m s).weaken (by decide) (by decide)
  · exact (andWith_handled m s).weaken (by decide) (by decide)
  · exact (bitWith_handled m s).weaken (by decide) (by decide)
  · exact (eorWith_handled m s).weaken (by decide) (by decide)
  · exact (adcWith_handled m s).weaken (by decide) (by decide)
  · exact (ldyWith_handled m s).weaken (by decide) (by decide)
  · exact (ldaWith_handled m s).weaken (by decide) (by decide)
  · exact (ldxWith_handled m s).weaken (by decide) (by decide)
  · exact (compareWith_handled s.y m s).weaken (by decide) (by decide)
  · exact (compareWith_handled s.a m s).weaken (by decide) (by decide)
  · exact (compareWith_handled s.x m s).weaken (by decide) (by decide)
  · exact (sbcWith_handled m s).weaken (by decide) (by decide)

theorem admittedHandler_handled {mn : Mnemonic} {h : Byte → State → State}
    (hm : admittedHandler mn = some h) (m : Byte) (s : State) :
    Handled (writtenRegs mn) (writtenFlags mn) s (h m s) := by
  cases mn <;> simp only [admittedHandler, reduceCtorEq, Option.some.injEq] at hm <;> subst hm
  · exact (asrWith_handled m s).weaken (by decide) (by decide)
  · exact (arrWith_handled m s).weaken (by decide) (by decide)
  · exact (xaaWith_handled m s).weaken (by decide) (by decide)
  · exact (atxWith_handled m s).weaken (by decide) (by decide)
  · exact (larWith_handled m s).weaken (by decide) (by decide)
  · exact (axsWith_handled m s).weaken (by decide) (by decide)

/-- The flags of a read-modify-write instruction. -/
theorem modifying_handled {mn : Mnemonic} {r f} (hm : modifying mn = some (r, f)) (v w : Byte)
    (s : State) : Handled [] (writtenFlags mn) s (f v w s) := by
  cases mn <;> simp only [modifying, reduceCtorEq, Option.some.injEq, Prod.mk.injEq] at hm <;>
    obtain ⟨_, hm⟩ := hm <;> subst hm
  · exact (shiftFlags_handled _ w s).weaken (by decide) (by decide)
  · exact (shiftFlags_handled _ w s).weaken (by decide) (by decide)
  · exact (shiftFlags_handled _ w s).weaken (by decide) (by decide)
  · exact (shiftFlags_handled _ w s).weaken (by decide) (by decide)
  · exact (setNZ_handled w s).weaken (by decide) (by decide)
  · exact (setNZ_handled w s).weaken (by decide) (by decide)

theorem impliedHandler_handled {mn : Mnemonic} {h : State → State}
    (hm : impliedHandler mn = some h) (s : State) :
    Handled (writtenRegs mn) (writtenFlags mn) s (h s) := by
  cases mn <;> simp only [impliedHandler, reduceCtorEq, Option.some.injEq] at hm <;> subst hm
  case txs => exact ⟨by apply regsKept_of <;> simp [txs, writtenRegs], fun _ _ => rfl, Did.setSp _ _, rfl, rfl⟩
  case clc | sec | cli | sei | clv | cld | sed => exact (setFlag_handled _ _ s).weaken (by decide) (by decide)
  all_goals
    exact ⟨by apply regsKept_of <;> simp [inx, iny, dex, dey, tax, tay, txa, tya, tsx, writtenRegs],
      by apply flagsKept_of <;>
          simp [inx, iny, dex, dey, tax, tay, txa, tya, tsx, setNZ, flag_setFlag, writtenFlags],
      Did.regs ⟨rfl, rfl, rfl, rfl, rfl, rfl, rfl⟩ rfl rfl rfl rfl, rfl, rfl⟩

end Sys2Proof.Machine
end

