-- ==== Sys2Proof/Laws/PerInstr.lean ====
section
/-! SUPPORT. Per-instruction laws about syntax. Family EncodedRow: an instruction's first byte alone
selects its row of the opcode table, and with it its mnemonic. -/

namespace Sys2Proof.Laws

/-- The row of the opcode table that an instruction's first byte selects has the instruction's own
mnemonic (R80, R83). -/
def EncodedRow.Statement (i : Instr) : Prop :=
  (instrOf i.opcode 0 0).mnemonic = i.mnemonic

theorem EncodedRow.brk : EncodedRow.Statement .brk :=
  (rfl : (instrOf 0x00 0 0).mnemonic = .brk)
theorem EncodedRow.oraIzx (zp : Byte) : EncodedRow.Statement (.oraIzx zp) :=
  (rfl : (instrOf 0x01 0 0).mnemonic = .ora)
theorem EncodedRow.kil02 : EncodedRow.Statement .kil02 :=
  (rfl : (instrOf 0x02 0 0).mnemonic = .kil)
theorem EncodedRow.sloIzx (zp : Byte) : EncodedRow.Statement (.sloIzx zp) :=
  (rfl : (instrOf 0x03 0 0).mnemonic = .slo)
theorem EncodedRow.nopZp04 (zp : Byte) : EncodedRow.Statement (.nopZp04 zp) :=
  (rfl : (instrOf 0x04 0 0).mnemonic = .nop)
theorem EncodedRow.oraZp (zp : Byte) : EncodedRow.Statement (.oraZp zp) :=
  (rfl : (instrOf 0x05 0 0).mnemonic = .ora)
theorem EncodedRow.aslZp (zp : Byte) : EncodedRow.Statement (.aslZp zp) :=
  (rfl : (instrOf 0x06 0 0).mnemonic = .asl)
theorem EncodedRow.sloZp (zp : Byte) : EncodedRow.Statement (.sloZp zp) :=
  (rfl : (instrOf 0x07 0 0).mnemonic = .slo)
theorem EncodedRow.php : EncodedRow.Statement .php :=
  (rfl : (instrOf 0x08 0 0).mnemonic = .php)
theorem EncodedRow.oraImm (imm : Byte) : EncodedRow.Statement (.oraImm imm) :=
  (rfl : (instrOf 0x09 0 0).mnemonic = .ora)
theorem EncodedRow.aslAcc : EncodedRow.Statement .aslAcc :=
  (rfl : (instrOf 0x0A 0 0).mnemonic = .asl)
theorem EncodedRow.aacImm0B (imm : Byte) : EncodedRow.Statement (.aacImm0B imm) :=
  (rfl : (instrOf 0x0B 0 0).mnemonic = .aac)
theorem EncodedRow.nopAbs (addr : Word) : EncodedRow.Statement (.nopAbs addr) :=
  (rfl : (instrOf 0x0C 0 0).mnemonic = .nop)
theorem EncodedRow.oraAbs (addr : Word) : EncodedRow.Statement (.oraAbs addr) :=
  (rfl : (instrOf 0x0D 0 0).mnemonic = .ora)
theorem EncodedRow.aslAbs (addr : Word) : EncodedRow.Statement (.aslAbs addr) :=
  (rfl : (instrOf 0x0E 0 0).mnemonic = .asl)
theorem EncodedRow.sloAbs (addr : Word) : EncodedRow.Statement (.sloAbs addr) :=
  (rfl : (instrOf 0x0F 0 0).mnemonic = .slo)
theorem EncodedRow.bpl (off : Byte) : EncodedRow.Statement (.bpl off) :=
  (rfl : (instrOf 0x10 0 0).mnemonic = .bpl)
theorem EncodedRow.oraIzy (zp : Byte) : EncodedRow.Statement (.oraIzy zp) :=
  (rfl : (instrOf 0x11 0 0).mnemonic = .ora)
theorem EncodedRow.kil12 : EncodedRow.Statement .kil12 :=
  (rfl : (instrOf 0x12 0 0).mnemonic = .kil)
theorem EncodedRow.sloIzy (zp : Byte) : EncodedRow.Statement (.sloIzy zp) :=
  (rfl : (instrOf 0x13 0 0).mnemonic = .slo)
theorem EncodedRow.nopZpx14 (zp : Byte) : EncodedRow.Statement (.nopZpx14 zp) :=
  (rfl : (instrOf 0x14 0 0).mnemonic = .nop)
theorem EncodedRow.oraZpx (zp : Byte) : EncodedRow.Statement (.oraZpx zp) :=
  (rfl : (instrOf 0x15 0 0).mnemonic = .ora)
theorem EncodedRow.aslZpx (zp : Byte) : EncodedRow.Statement (.aslZpx zp) :=
  (rfl : (instrOf 0x16 0 0).mnemonic = .asl)
theorem EncodedRow.sloZpx (zp : Byte) : EncodedRow.Statement (.sloZpx zp) :=
  (rfl : (instrOf 0x17 0 0).mnemonic = .slo)
theorem EncodedRow.clc : EncodedRow.Statement .clc :=
  (rfl : (instrOf 0x18 0 0).mnemonic = .clc)
theorem EncodedRow.oraAby (base : Word) : EncodedRow.Statement (.oraAby base) :=
  (rfl : (instrOf 0x19 0 0).mnemonic = .ora)
theorem EncodedRow.nop1A : EncodedRow.Statement .nop1A :=
  (rfl : (instrOf 0x1A 0 0).mnemonic = .nop)
theorem EncodedRow.sloAby (base : Word) : EncodedRow.Statement (.sloAby base) :=
  (rfl : (instrOf 0x1B 0 0).mnemonic = .slo)
theorem EncodedRow.nopAbx1C (base : Word) : EncodedRow.Statement (.nopAbx1C base) :=
  (rfl : (instrOf 0x1C 0 0).mnemonic = .nop)
theorem EncodedRow.oraAbx (base : Word) : EncodedRow.Statement (.oraAbx base) :=
  (rfl : (instrOf 0x1D 0 0).mnemonic = .ora)
theorem EncodedRow.aslAbx (base : Word) : EncodedRow.Statement (.aslAbx base) :=
  (rfl : (instrOf 0x1E 0 0).mnemonic = .asl)
theorem EncodedRow.sloAbx (base : Word) : EncodedRow.Statement (.sloAbx base) :=
  (rfl : (instrOf 0x1F 0 0).mnemonic = .slo)
theorem EncodedRow.jsr (addr : Word) : EncodedRow.Statement (.jsr addr) :=
  (rfl : (instrOf 0x20 0 0).mnemonic = .jsr)
theorem EncodedRow.andIzx (zp : Byte) : EncodedRow.Statement (.andIzx zp) :=
  (rfl : (instrOf 0x21 0 0).mnemonic = .and)
theorem EncodedRow.kil22 : EncodedRow.Statement .kil22 :=
  (rfl : (instrOf 0x22 0 0).mnemonic = .kil)
theorem EncodedRow.rlaIzx (zp : Byte) : EncodedRow.Statement (.rlaIzx zp) :=
  (rfl : (instrOf 0x23 0 0).mnemonic = .rla)
theorem EncodedRow.bitZp (zp : Byte) : EncodedRow.Statement (.bitZp zp) :=
  (rfl : (instrOf 0x24 0 0).mnemonic = .bit)
theorem EncodedRow.andZp (zp : Byte) : EncodedRow.Statement (.andZp zp) :=
  (rfl : (instrOf 0x25 0 0).mnemonic = .and)
theorem EncodedRow.rolZp (zp : Byte) : EncodedRow.Statement (.rolZp zp) :=
  (rfl : (instrOf 0x26 0 0).mnemonic = .rol)
theorem EncodedRow.rlaZp (zp : Byte) : EncodedRow.Statement (.rlaZp zp) :=
  (rfl : (instrOf 0x27 0 0).mnemonic = .rla)
theorem EncodedRow.plp : EncodedRow.Statement .plp :=
  (rfl : (instrOf 0x28 0 0).mnemonic = .plp)
theorem EncodedRow.andImm (imm : Byte) : EncodedRow.Statement (.andImm imm) :=
  (rfl : (instrOf 0x29 0 0).mnemonic = .and)
theorem EncodedRow.rolAcc : EncodedRow.Statement .rolAcc :=
  (rfl : (instrOf 0x2A 0 0).mnemonic = .rol)
theorem EncodedRow.aacImm2B (imm : Byte) : EncodedRow.Statement (.aacImm2B imm) :=
  (rfl : (instrOf 0x2B 0 0).mnemonic = .aac)
theorem EncodedRow.bitAbs (addr : Word) : EncodedRow.Statement (.bitAbs addr) :=
  (rfl : (instrOf 0x2C 0 0).mnemonic = .bit)
theorem EncodedRow.andAbs (addr : Word) : EncodedRow.Statement (.andAbs addr) :=
  (rfl : (instrOf 0x2D 0 0).mnemonic = .and)
theorem EncodedRow.rolAbs (addr : Word) : EncodedRow.Statement (.rolAbs addr) :=
  (rfl : (instrOf 0x2E 0 0).mnemonic = .rol)
theorem EncodedRow.rlaAbs (addr : Word) : EncodedRow.Statement (.rlaAbs addr) :=
  (rfl : (instrOf 0x2F 0 0).mnemonic = .rla)
theorem EncodedRow.bmi (off : Byte) : EncodedRow.Statement (.bmi off) :=
  (rfl : (instrOf 0x30 0 0).mnemonic = .bmi)
theorem EncodedRow.andIzy (zp : Byte) : EncodedRow.Statement (.andIzy zp) :=
  (rfl : (instrOf 0x31 0 0).mnemonic = .and)
theorem EncodedRow.kil32 : EncodedRow.Statement .kil32 :=
  (rfl : (instrOf 0x32 0 0).mnemonic = .kil)
theorem EncodedRow.rlaIzy (zp : Byte) : EncodedRow.Statement (.rlaIzy zp) :=
  (rfl : (instrOf 0x33 0 0).mnemonic = .rla)
theorem EncodedRow.nopZpx34 (zp : Byte) : EncodedRow.Statement (.nopZpx34 zp) :=
  (rfl : (instrOf 0x34 0 0).mnemonic = .nop)
theorem EncodedRow.andZpx (zp : Byte) : EncodedRow.Statement (.andZpx zp) :=
  (rfl : (instrOf 0x35 0 0).mnemonic = .and)
theorem EncodedRow.rolZpx (zp : Byte) : EncodedRow.Statement (.rolZpx zp) :=
  (rfl : (instrOf 0x36 0 0).mnemonic = .rol)
theorem EncodedRow.rlaZpx (zp : Byte) : EncodedRow.Statement (.rlaZpx zp) :=
  (rfl : (instrOf 0x37 0 0).mnemonic = .rla)
theorem EncodedRow.sec : EncodedRow.Statement .sec :=
  (rfl : (instrOf 0x38 0 0).mnemonic = .sec)
theorem EncodedRow.andAby (base : Word) : EncodedRow.Statement (.andAby base) :=
  (rfl : (instrOf 0x39 0 0).mnemonic = .and)
theorem EncodedRow.nop3A : EncodedRow.Statement .nop3A :=
  (rfl : (instrOf 0x3A 0 0).mnemonic = .nop)
theorem EncodedRow.rlaAby (base : Word) : EncodedRow.Statement (.rlaAby base) :=
  (rfl : (instrOf 0x3B 0 0).mnemonic = .rla)
theorem EncodedRow.nopAbx3C (base : Word) : EncodedRow.Statement (.nopAbx3C base) :=
  (rfl : (instrOf 0x3C 0 0).mnemonic = .nop)
theorem EncodedRow.andAbx (base : Word) : EncodedRow.Statement (.andAbx base) :=
  (rfl : (instrOf 0x3D 0 0).mnemonic = .and)
theorem EncodedRow.rolAbx (base : Word) : EncodedRow.Statement (.rolAbx base) :=
  (rfl : (instrOf 0x3E 0 0).mnemonic = .rol)
theorem EncodedRow.rlaAbx (base : Word) : EncodedRow.Statement (.rlaAbx base) :=
  (rfl : (instrOf 0x3F 0 0).mnemonic = .rla)
theorem EncodedRow.rti : EncodedRow.Statement .rti :=
  (rfl : (instrOf 0x40 0 0).mnemonic = .rti)
theorem EncodedRow.eorIzx (zp : Byte) : EncodedRow.Statement (.eorIzx zp) :=
  (rfl : (instrOf 0x41 0 0).mnemonic = .eor)
theorem EncodedRow.kil42 : EncodedRow.Statement .kil42 :=
  (rfl : (instrOf 0x42 0 0).mnemonic = .kil)
theorem EncodedRow.sreIzx (zp : Byte) : EncodedRow.Statement (.sreIzx zp) :=
  (rfl : (instrOf 0x43 0 0).mnemonic = .sre)
theorem EncodedRow.nopZp44 (zp : Byte) : EncodedRow.Statement (.nopZp44 zp) :=
  (rfl : (instrOf 0x44 0 0).mnemonic = .nop)
theorem EncodedRow.eorZp (zp : Byte) : EncodedRow.Statement (.eorZp zp) :=
  (rfl : (instrOf 0x45 0 0).mnemonic = .eor)
theorem EncodedRow.lsrZp (zp : Byte) : EncodedRow.Statement (.lsrZp zp) :=
  (rfl : (instrOf 0x46 0 0).mnemonic = .lsr)
theorem EncodedRow.sreZp (zp : Byte) : EncodedRow.Statement (.sreZp zp) :=
  (rfl : (instrOf 0x47 0 0).mnemonic = .sre)
theorem EncodedRow.pha : EncodedRow.Statement .pha :=
  (rfl : (instrOf 0x48 0 0).mnemonic = .pha)
theorem EncodedRow.eorImm (imm : Byte) : EncodedRow.Statement (.eorImm imm) :=
  (rfl : (instrOf 0x49 0 0).mnemonic = .eor)
theorem EncodedRow.lsrAcc : EncodedRow.Statement .lsrAcc :=
  (rfl : (instrOf 0x4A 0 0).mnemonic = .lsr)
theorem EncodedRow.asr (imm : Byte) : EncodedRow.Statement (.asr imm) :=
  (rfl : (instrOf 0x4B 0 0).mnemonic = .asr)
theorem EncodedRow.jmpAbs (addr : Word) : EncodedRow.Statement (.jmpAbs addr) :=
  (rfl : (instrOf 0x4C 0 0).mnemonic = .jmp)
theorem EncodedRow.eorAbs (addr : Word) : EncodedRow.Statement (.eorAbs addr) :=
  (rfl : (instrOf 0x4D 0 0).mnemonic = .eor)
theorem EncodedRow.lsrAbs (addr : Word) : EncodedRow.Statement (.lsrAbs addr) :=
  (rfl : (instrOf 0x4E 0 0).mnemonic = .lsr)
theorem EncodedRow.sreAbs (addr : Word) : EncodedRow.Statement (.sreAbs addr) :=
  (rfl : (instrOf 0x4F 0 0).mnemonic = .sre)
theorem EncodedRow.bvc (off : Byte) : EncodedRow.Statement (.bvc off) :=
  (rfl : (instrOf 0x50 0 0).mnemonic = .bvc)
theorem EncodedRow.eorIzy (zp : Byte) : EncodedRow.Statement (.eorIzy zp) :=
  (rfl : (instrOf 0x51 0 0).mnemonic = .eor)
theorem EncodedRow.kil52 : EncodedRow.Statement .kil52 :=
  (rfl : (instrOf 0x52 0 0).mnemonic = .kil)
theorem EncodedRow.sreIzy (zp : Byte) : EncodedRow.Statement (.sreIzy zp) :=
  (rfl : (instrOf 0x53 0 0).mnemonic = .sre)
theorem EncodedRow.nopZpx54 (zp : Byte) : EncodedRow.Statement (.nopZpx54 zp) :=
  (rfl : (instrOf 0x54 0 0).mnemonic = .nop)
theorem EncodedRow.eorZpx (zp : Byte) : EncodedRow.Statement (.eorZpx zp) :=
  (rfl : (instrOf 0x55 0 0).mnemonic = .eor)
theorem EncodedRow.lsrZpx (zp : Byte) : EncodedRow.Statement (.lsrZpx zp) :=
  (rfl : (instrOf 0x56 0 0).mnemonic = .lsr)
theorem EncodedRow.sreZpx (zp : Byte) : EncodedRow.Statement (.sreZpx zp) :=
  (rfl : (instrOf 0x57 0 0).mnemonic = .sre)
theorem EncodedRow.cli : EncodedRow.Statement .cli :=
  (rfl : (instrOf 0x58 0 0).mnemonic = .cli)
theorem EncodedRow.eorAby (base : Word) : EncodedRow.Statement (.eorAby base) :=
  (rfl : (instrOf 0x59 0 0).mnemonic = .eor)
theorem EncodedRow.nop5A : EncodedRow.Statement .nop5A :=
  (rfl : (instrOf 0x5A 0 0).mnemonic = .nop)
theorem EncodedRow.sreAby (base : Word) : EncodedRow.Statement (.sreAby base) :=
  (rfl : (instrOf 0x5B 0 0).mnemonic = .sre)
theorem EncodedRow.nopAbx5C (base : Word) : EncodedRow.Statement (.nopAbx5C base) :=
  (rfl : (instrOf 0x5C 0 0).mnemonic = .nop)
theorem EncodedRow.eorAbx (base : Word) : EncodedRow.Statement (.eorAbx base) :=
  (rfl : (instrOf 0x5D 0 0).mnemonic = .eor)
theorem EncodedRow.lsrAbx (base : Word) : EncodedRow.Statement (.lsrAbx base) :=
  (rfl : (instrOf 0x5E 0 0).mnemonic = .lsr)
theorem EncodedRow.sreAbx (base : Word) : EncodedRow.Statement (.sreAbx base) :=
  (rfl : (instrOf 0x5F 0 0).mnemonic = .sre)
theorem EncodedRow.rts : EncodedRow.Statement .rts :=
  (rfl : (instrOf 0x60 0 0).mnemonic = .rts)
theorem EncodedRow.adcIzx (zp : Byte) : EncodedRow.Statement (.adcIzx zp) :=
  (rfl : (instrOf 0x61 0 0).mnemonic = .adc)
theorem EncodedRow.kil62 : EncodedRow.Statement .kil62 :=
  (rfl : (instrOf 0x62 0 0).mnemonic = .kil)
theorem EncodedRow.rraIzx (zp : Byte) : EncodedRow.Statement (.rraIzx zp) :=
  (rfl : (instrOf 0x63 0 0).mnemonic = .rra)
theorem EncodedRow.nopZp64 (zp : Byte) : EncodedRow.Statement (.nopZp64 zp) :=
  (rfl : (instrOf 0x64 0 0).mnemonic = .nop)
theorem EncodedRow.adcZp (zp : Byte) : EncodedRow.Statement (.adcZp zp) :=
  (rfl : (instrOf 0x65 0 0).mnemonic = .adc)
theorem EncodedRow.rorZp (zp : Byte) : EncodedRow.Statement (.rorZp zp) :=
  (rfl : (instrOf 0x66 0 0).mnemonic = .ror)
theorem EncodedRow.rraZp (zp : Byte) : EncodedRow.Statement (.rraZp zp) :=
  (rfl : (instrOf 0x67 0 0).mnemonic = .rra)
theorem EncodedRow.pla : EncodedRow.Statement .pla :=
  (rfl : (instrOf 0x68 0 0).mnemonic = .pla)
theorem EncodedRow.adcImm (imm : Byte) : EncodedRow.Statement (.adcImm imm) :=
  (rfl : (instrOf 0x69 0 0).mnemonic = .adc)
theorem EncodedRow.rorAcc : EncodedRow.Statement .rorAcc :=
  (rfl : (instrOf 0x6A 0 0).mnemonic = .ror)
theorem EncodedRow.arr (imm : Byte) : EncodedRow.Statement (.arr imm) :=
  (rfl : (instrOf 0x6B 0 0).mnemonic = .arr)
theorem EncodedRow.jmpInd (ptr : Word) : EncodedRow.Statement (.jmpInd ptr) :=
  (rfl : (instrOf 0x6C 0 0).mnemonic = .jmp)
theorem EncodedRow.adcAbs (addr : Word) : EncodedRow.Statement (.adcAbs addr) :=
  (rfl : (instrOf 0x6D 0 0).mnemonic = .adc)
theorem EncodedRow.rorAbs (addr : Word) : EncodedRow.Statement (.rorAbs addr) :=
  (rfl : (instrOf 0x6E 0 0).mnemonic = .ror)
theorem EncodedRow.rraAbs (addr : Word) : EncodedRow.Statement (.rraAbs addr) :=
  (rfl : (instrOf 0x6F 0 0).mnemonic = .rra)
theorem EncodedRow.bvs (off : Byte) : EncodedRow.Statement (.bvs off) :=
  (rfl : (instrOf 0x70 0 0).mnemonic = .bvs)
theorem EncodedRow.adcIzy (zp : Byte) : EncodedRow.Statement (.adcIzy zp) :=
  (rfl : (instrOf 0x71 0 0).mnemonic = .adc)
theorem EncodedRow.kil72 : EncodedRow.Statement .kil72 :=
  (rfl : (instrOf 0x72 0 0).mnemonic = .kil)
theorem EncodedRow.rraIzy (zp : Byte) : EncodedRow.Statement (.rraIzy zp) :=
  (rfl : (instrOf 0x73 0 0).mnemonic = .rra)
theorem EncodedRow.nopZpx74 (zp : Byte) : EncodedRow.Statement (.nopZpx74 zp) :=
  (rfl : (instrOf 0x74 0 0).mnemonic = .nop)
theorem EncodedRow.adcZpx (zp : Byte) : EncodedRow.Statement (.adcZpx zp) :=
  (rfl : (instrOf 0x75 0 0).mnemonic = .adc)
theorem EncodedRow.rorZpx (zp : Byte) : EncodedRow.Statement (.rorZpx zp) :=
  (rfl : (instrOf 0x76 0 0).mnemonic = .ror)
theorem EncodedRow.rraZpx (zp : Byte) : EncodedRow.Statement (.rraZpx zp) :=
  (rfl : (instrOf 0x77 0 0).mnemonic = .rra)
theorem EncodedRow.sei : EncodedRow.Statement .sei :=
  (rfl : (instrOf 0x78 0 0).mnemonic = .sei)
theorem EncodedRow.adcAby (base : Word) : EncodedRow.Statement (.adcAby base) :=
  (rfl : (instrOf 0x79 0 0).mnemonic = .adc)
theorem EncodedRow.nop7A : EncodedRow.Statement .nop7A :=
  (rfl : (instrOf 0x7A 0 0).mnemonic = .nop)
theorem EncodedRow.rraAby (base : Word) : EncodedRow.Statement (.rraAby base) :=
  (rfl : (instrOf 0x7B 0 0).mnemonic = .rra)
theorem EncodedRow.nopAbx7C (base : Word) : EncodedRow.Statement (.nopAbx7C base) :=
  (rfl : (instrOf 0x7C 0 0).mnemonic = .nop)
theorem EncodedRow.adcAbx (base : Word) : EncodedRow.Statement (.adcAbx base) :=
  (rfl : (instrOf 0x7D 0 0).mnemonic = .adc)
theorem EncodedRow.rorAbx (base : Word) : EncodedRow.Statement (.rorAbx base) :=
  (rfl : (instrOf 0x7E 0 0).mnemonic = .ror)
theorem EncodedRow.rraAbx (base : Word) : EncodedRow.Statement (.rraAbx base) :=
  (rfl : (instrOf 0x7F 0 0).mnemonic = .rra)
theorem EncodedRow.nopImm80 (imm : Byte) : EncodedRow.Statement (.nopImm80 imm) :=
  (rfl : (instrOf 0x80 0 0).mnemonic = .nop)
theorem EncodedRow.staIzx (zp : Byte) : EncodedRow.Statement (.staIzx zp) :=
  (rfl : (instrOf 0x81 0 0).mnemonic = .sta)
theorem EncodedRow.nopImm82 (imm : Byte) : EncodedRow.Statement (.nopImm82 imm) :=
  (rfl : (instrOf 0x82 0 0).mnemonic = .nop)
theorem EncodedRow.saxIzx (zp : Byte) : EncodedRow.Statement (.saxIzx zp) :=
  (rfl : (instrOf 0x83 0 0).mnemonic = .sax)
theorem EncodedRow.styZp (zp : Byte) : EncodedRow.Statement (.styZp zp) :=
  (rfl : (instrOf 0x84 0 0).mnemonic = .sty)
theorem EncodedRow.staZp (zp : Byte) : EncodedRow.Statement (.staZp zp) :=
  (rfl : (instrOf 0x85 0 0).mnemonic = .sta)
theorem EncodedRow.stxZp (zp : Byte) : EncodedRow.Statement (.stxZp zp) :=
  (rfl : (instrOf 0x86 0 0).mnemonic = .stx)
theorem EncodedRow.saxZp (zp : Byte) : EncodedRow.Statement (.saxZp zp) :=
  (rfl : (instrOf 0x87 0 0).mnemonic = .sax)
theorem EncodedRow.dey : EncodedRow.Statement .dey :=
  (rfl : (instrOf 0x88 0 0).mnemonic = .dey)
theorem EncodedRow.nopImm89 (imm : Byte) : EncodedRow.Statement (.nopImm89 imm) :=
  (rfl : (instrOf 0x89 0 0).mnemonic = .nop)
theorem EncodedRow.txa : EncodedRow.Statement .txa :=
  (rfl : (instrOf 0x8A 0 0).mnemonic = .txa)
theorem EncodedRow.xaa (imm : Byte) : EncodedRow.Statement (.xaa imm) :=
  (rfl : (instrOf 0x8B 0 0).mnemonic = .xaa)
theorem EncodedRow.styAbs (addr : Word) : EncodedRow.Statement (.styAbs addr) :=
  (rfl : (instrOf 0x8C 0 0).mnemonic = .sty)
theorem EncodedRow.staAbs (addr : Word) : EncodedRow.Statement (.staAbs addr) :=
  (rfl : (instrOf 0x8D 0 0).mnemonic = .sta)
theorem EncodedRow.stxAbs (addr : Word) : EncodedRow.Statement (.stxAbs addr) :=
  (rfl : (instrOf 0x8E 0 0).mnemonic = .stx)
theorem EncodedRow.saxAbs (addr : Word) : EncodedRow.Statement (.saxAbs addr) :=
  (rfl : (instrOf 0x8F 0 0).mnemonic = .sax)
theorem EncodedRow.bcc (off : Byte) : EncodedRow.Statement (.bcc off) :=
  (rfl : (instrOf 0x90 0 0).mnemonic = .bcc)
theorem EncodedRow.staIzy (zp : Byte) : EncodedRow.Statement (.staIzy zp) :=
  (rfl : (instrOf 0x91 0 0).mnemonic = .sta)
theorem EncodedRow.kil92 : EncodedRow.Statement .kil92 :=
  (rfl : (instrOf 0x92 0 0).mnemonic = .kil)
theorem EncodedRow.axaIzy (zp : Byte) : EncodedRow.Statement (.axaIzy zp) :=
  (rfl : (instrOf 0x93 0 0).mnemonic = .axa)
theorem EncodedRow.styZpx (zp : Byte) : EncodedRow.Statement (.styZpx zp) :=
  (rfl : (instrOf 0x94 0 0).mnemonic = .sty)
theorem EncodedRow.staZpx (zp : Byte) : EncodedRow.Statement (.staZpx zp) :=
  (rfl : (instrOf 0x95 0 0).mnemonic = .sta)
theorem EncodedRow.stxZpy (zp : Byte) : EncodedRow.Statement (.stxZpy zp) :=
  (rfl : (instrOf 0x96 0 0).mnemonic = .stx)
theorem EncodedRow.saxZpy (zp : Byte) : EncodedRow.Statement (.saxZpy zp) :=
  (rfl : (instrOf 0x97 0 0).mnemonic = .sax)
theorem EncodedRow.tya : EncodedRow.Statement .tya :=
  (rfl : (instrOf 0x98 0 0).mnemonic = .tya)
theorem EncodedRow.staAby (base : Word) : EncodedRow.Statement (.staAby base) :=
  (rfl : (instrOf 0x99 0 0).mnemonic = .sta)
theorem EncodedRow.txs : EncodedRow.Statement .txs :=
  (rfl : (instrOf 0x9A 0 0).mnemonic = .txs)
theorem EncodedRow.xas (base : Word) : EncodedRow.Statement (.xas base) :=
  (rfl : (instrOf 0x9B 0 0).mnemonic = .xas)
theorem EncodedRow.sya (base : Word) : EncodedRow.Statement (.sya base) :=
  (rfl : (instrOf 0x9C 0 0).mnemonic = .sya)
theorem EncodedRow.staAbx (base : Word) : EncodedRow.Statement (.staAbx base) :=
  (rfl : (instrOf 0x9D 0 0).mnemonic = .sta)
theorem EncodedRow.sxa (base : Word) : EncodedRow.Statement (.sxa base) :=
  (rfl : (instrOf 0x9E 0 0).mnemonic = .sxa)
theorem EncodedRow.axaAby (base : Word) : EncodedRow.Statement (.axaAby base) :=
  (rfl : (instrOf 0x9F 0 0).mnemonic = .axa)
theorem EncodedRow.ldyImm (imm : Byte) : EncodedRow.Statement (.ldyImm imm) :=
  (rfl : (instrOf 0xA0 0 0).mnemonic = .ldy)
theorem EncodedRow.ldaIzx (zp : Byte) : EncodedRow.Statement (.ldaIzx zp) :=
  (rfl : (instrOf 0xA1 0 0).mnemonic = .lda)
theorem EncodedRow.ldxImm (imm : Byte) : EncodedRow.Statement (.ldxImm imm) :=
  (rfl : (instrOf 0xA2 0 0).mnemonic = .ldx)
theorem EncodedRow.laxIzx (zp : Byte) : EncodedRow.Statement (.laxIzx zp) :=
  (rfl : (instrOf 0xA3 0 0).mnemonic = .lax)
theorem EncodedRow.ldyZp (zp : Byte) : EncodedRow.Statement (.ldyZp zp) :=
  (rfl : (instrOf 0xA4 0 0).mnemonic = .ldy)
theorem EncodedRow.ldaZp (zp : Byte) : EncodedRow.Statement (.ldaZp zp) :=
  (rfl : (instrOf 0xA5 0 0).mnemonic = .lda)
theorem EncodedRow.ldxZp (zp : Byte) : EncodedRow.Statement (.ldxZp zp) :=
  (rfl : (instrOf 0xA6 0 0).mnemonic = .ldx)
theorem EncodedRow.laxZp (zp : Byte) : EncodedRow.Statement (.laxZp zp) :=
  (rfl : (instrOf 0xA7 0 0).mnemonic = .lax)
theorem EncodedRow.tay : EncodedRow.Statement .tay :=
  (rfl : (instrOf 0xA8 0 0).mnemonic = .tay)
theorem EncodedRow.ldaImm (imm : Byte) : EncodedRow.Statement (.ldaImm imm) :=
  (rfl : (instrOf 0xA9 0 0).mnemonic = .lda)
theorem EncodedRow.tax : EncodedRow.Statement .tax :=
  (rfl : (instrOf 0xAA 0 0).mnemonic = .tax)
theorem EncodedRow.atx (imm : Byte) : EncodedRow.Statement (.atx imm) :=
  (rfl : (instrOf 0xAB 0 0).mnemonic = .atx)
theorem EncodedRow.ldyAbs (addr : Word) : EncodedRow.Statement (.ldyAbs addr) :=
  (rfl : (instrOf 0xAC 0 0).mnemonic = .ldy)
theorem EncodedRow.ldaAbs (addr : Word) : EncodedRow.Statement (.ldaAbs addr) :=
  (rfl : (instrOf 0xAD 0 0).mnemonic = .lda)
theorem EncodedRow.ldxAbs (addr : Word) : EncodedRow.Statement (.ldxAbs addr) :=
  (rfl : (instrOf 0xAE 0 0).mnemonic = .ldx)
theorem EncodedRow.laxAbs (addr : Word) : EncodedRow.Statement (.laxAbs addr) :=
  (rfl : (instrOf 0xAF 0 0).mnemonic = .lax)
theorem EncodedRow.bcs (off : Byte) : EncodedRow.Statement (.bcs off) :=
  (rfl : (instrOf 0xB0 0 0).mnemonic = .bcs)
theorem EncodedRow.ldaIzy (zp : Byte) : EncodedRow.Statement (.ldaIzy zp) :=
  (rfl : (instrOf 0xB1 0 0).mnemonic = .lda)
theorem EncodedRow.kilB2 : EncodedRow.Statement .kilB2 :=
  (rfl : (instrOf 0xB2 0 0).mnemonic = .kil)
theorem EncodedRow.laxIzy (zp : Byte) : EncodedRow.Statement (.laxIzy zp) :=
  (rfl : (instrOf 0xB3 0 0).mnemonic = .lax)
theorem EncodedRow.ldyZpx (zp : Byte) : EncodedRow.Statement (.ldyZpx zp) :=
  (rfl : (instrOf 0xB4 0 0).mnemonic = .ldy)
theorem EncodedRow.ldaZpx (zp : Byte) : EncodedRow.Statement (.ldaZpx zp) :=
  (rfl : (instrOf 0xB5 0 0).mnemonic = .lda)
theorem EncodedRow.ldxZpy (zp : Byte) : EncodedRow.Statement (.ldxZpy zp) :=
  (rfl : (instrOf 0xB6 0 0).mnemonic = .ldx)
theorem EncodedRow.laxZpy (zp : Byte) : EncodedRow.Statement (.laxZpy zp) :=
  (rfl : (instrOf 0xB7 0 0).mnemonic = .lax)
theorem EncodedRow.clv : EncodedRow.Statement .clv :=
  (rfl : (instrOf 0xB8 0 0).mnemonic = .clv)
theorem EncodedRow.ldaAby (base : Word) : EncodedRow.Statement (.ldaAby base) :=
  (rfl : (instrOf 0xB9 0 0).mnemonic = .lda)
theorem EncodedRow.tsx : EncodedRow.Statement .tsx :=
  (rfl : (instrOf 0xBA 0 0).mnemonic = .tsx)
theorem EncodedRow.lar (base : Word) : EncodedRow.Statement (.lar base) :=
  (rfl : (instrOf 0xBB 0 0).mnemonic = .lar)
theorem EncodedRow.ldyAbx (base : Word) : EncodedRow.Statement (.ldyAbx base) :=
  (rfl : (instrOf 0xBC 0 0).mnemonic = .ldy)
theorem EncodedRow.ldaAbx (base : Word) : EncodedRow.Statement (.ldaAbx base) :=
  (rfl : (instrOf 0xBD 0 0).mnemonic = .lda)
theorem EncodedRow.ldxAby (base : Word) : EncodedRow.Statement (.ldxAby base) :=
  (rfl : (instrOf 0xBE 0 0).mnemonic = .ldx)
theorem EncodedRow.laxAby (base : Word) : EncodedRow.Statement (.laxAby base) :=
  (rfl : (instrOf 0xBF 0 0).mnemonic = .lax)
theorem EncodedRow.cpyImm (imm : Byte) : EncodedRow.Statement (.cpyImm imm) :=
  (rfl : (instrOf 0xC0 0 0).mnemonic = .cpy)
theorem EncodedRow.cmpIzx (zp : Byte) : EncodedRow.Statement (.cmpIzx zp) :=
  (rfl : (instrOf 0xC1 0 0).mnemonic = .cmp)
theorem EncodedRow.nopImmC2 (imm : Byte) : EncodedRow.Statement (.nopImmC2 imm) :=
  (rfl : (instrOf 0xC2 0 0).mnemonic = .nop)
theorem EncodedRow.dcpIzx (zp : Byte) : EncodedRow.Statement (.dcpIzx zp) :=
  (rfl : (instrOf 0xC3 0 0).mnemonic = .dcp)
theorem EncodedRow.cpyZp (zp : Byte) : EncodedRow.Statement (.cpyZp zp) :=
  (rfl : (instrOf 0xC4 0 0).mnemonic = .cpy)
theorem EncodedRow.cmpZp (zp : Byte) : EncodedRow.Statement (.cmpZp zp) :=
  (rfl : (instrOf 0xC5 0 0).mnemonic = .cmp)
theorem EncodedRow.decZp (zp : Byte) : EncodedRow.Statement (.decZp zp) :=
  (rfl : (instrOf 0xC6 0 0).mnemonic = .dec)
theorem EncodedRow.dcpZp (zp : Byte) : EncodedRow.Statement (.dcpZp zp) :=
  (rfl : (instrOf 0xC7 0 0).mnemonic = .dcp)
theorem EncodedRow.iny : EncodedRow.Statement .iny :=
  (rfl : (instrOf 0xC8 0 0).mnemonic = .iny)
theorem EncodedRow.cmpImm (imm : Byte) : EncodedRow.Statement (.cmpImm imm) :=
  (rfl : (instrOf 0xC9 0 0).mnemonic = .cmp)
theorem EncodedRow.dex : EncodedRow.Statement .dex :=
  (rfl : (instrOf 0xCA 0 0).mnemonic = .dex)
theorem EncodedRow.axs (imm : Byte) : EncodedRow.Statement (.axs imm) :=
  (rfl : (instrOf 0xCB 0 0).mnemonic = .axs)
theorem EncodedRow.cpyAbs (addr : Word) : EncodedRow.Statement (.cpyAbs addr) :=
  (rfl : (instrOf 0xCC 0 0).mnemonic = .cpy)
theorem EncodedRow.cmpAbs (addr : Word) : EncodedRow.Statement (.cmpAbs addr) :=
  (rfl : (instrOf 0xCD 0 0).mnemonic = .cmp)
theorem EncodedRow.decAbs (addr : Word) : EncodedRow.Statement (.decAbs addr) :=
  (rfl : (instrOf 0xCE 0 0).mnemonic = .dec)
theorem EncodedRow.dcpAbs (addr : Word) : EncodedRow.Statement (.dcpAbs addr) :=
  (rfl : (instrOf 0xCF 0 0).mnemonic = .dcp)
theorem EncodedRow.bne (off : Byte) : EncodedRow.Statement (.bne off) :=
  (rfl : (instrOf 0xD0 0 0).mnemonic = .bne)
theorem EncodedRow.cmpIzy (zp : Byte) : EncodedRow.Statement (.cmpIzy zp) :=
  (rfl : (instrOf 0xD1 0 0).mnemonic = .cmp)
theorem EncodedRow.kilD2 : EncodedRow.Statement .kilD2 :=
  (rfl : (instrOf 0xD2 0 0).mnemonic = .kil)
theorem EncodedRow.dcpIzy (zp : Byte) : EncodedRow.Statement (.dcpIzy zp) :=
  (rfl : (instrOf 0xD3 0 0).mnemonic = .dcp)
theorem EncodedRow.nopZpxD4 (zp : Byte) : EncodedRow.Statement (.nopZpxD4 zp) :=
  (rfl : (instrOf 0xD4 0 0).mnemonic = .nop)
theorem EncodedRow.cmpZpx (zp : Byte) : EncodedRow.Statement (.cmpZpx zp) :=
  (rfl : (instrOf 0xD5 0 0).mnemonic = .cmp)
theorem EncodedRow.decZpx (zp : Byte) : EncodedRow.Statement (.decZpx zp) :=
  (rfl : (instrOf 0xD6 0 0).mnemonic = .dec)
theorem EncodedRow.dcpZpx (zp : Byte) : EncodedRow.Statement (.dcpZpx zp) :=
  (rfl : (instrOf 0xD7 0 0).mnemonic = .dcp)
theorem EncodedRow.cld : EncodedRow.Statement .cld :=
  (rfl : (instrOf 0xD8 0 0).mnemonic = .cld)
theorem EncodedRow.cmpAby (base : Word) : EncodedRow.Statement (.cmpAby base) :=
  (rfl : (instrOf 0xD9 0 0).mnemonic = .cmp)
theorem EncodedRow.nopDA : EncodedRow.Statement .nopDA :=
  (rfl : (instrOf 0xDA 0 0).mnemonic = .nop)
theorem EncodedRow.dcpAby (base : Word) : EncodedRow.Statement (.dcpAby base) :=
  (rfl : (instrOf 0xDB 0 0).mnemonic = .dcp)
theorem EncodedRow.nopAbxDC (base : Word) : EncodedRow.Statement (.nopAbxDC base) :=
  (rfl : (instrOf 0xDC 0 0).mnemonic = .nop)
theorem EncodedRow.cmpAbx (base : Word) : EncodedRow.Statement (.cmpAbx base) :=
  (rfl : (instrOf 0xDD 0 0).mnemonic = .cmp)
theorem EncodedRow.decAbx (base : Word) : EncodedRow.Statement (.decAbx base) :=
  (rfl : (instrOf 0xDE 0 0).mnemonic = .dec)
theorem EncodedRow.dcpAbx (base : Word) : EncodedRow.Statement (.dcpAbx base) :=
  (rfl : (instrOf 0xDF 0 0).mnemonic = .dcp)
theorem EncodedRow.cpxImm (imm : Byte) : EncodedRow.Statement (.cpxImm imm) :=
  (rfl : (instrOf 0xE0 0 0).mnemonic = .cpx)
theorem EncodedRow.sbcIzx (zp : Byte) : EncodedRow.Statement (.sbcIzx zp) :=
  (rfl : (instrOf 0xE1 0 0).mnemonic = .sbc)
theorem EncodedRow.nopImmE2 (imm : Byte) : EncodedRow.Statement (.nopImmE2 imm) :=
  (rfl : (instrOf 0xE2 0 0).mnemonic = .nop)
theorem EncodedRow.isbIzx (zp : Byte) : EncodedRow.Statement (.isbIzx zp) :=
  (rfl : (instrOf 0xE3 0 0).mnemonic = .isb)
theorem EncodedRow.cpxZp (zp : Byte) : EncodedRow.Statement (.cpxZp zp) :=
  (rfl : (instrOf 0xE4 0 0).mnemonic = .cpx)
theorem EncodedRow.sbcZp (zp : Byte) : EncodedRow.Statement (.sbcZp zp) :=
  (rfl : (instrOf 0xE5 0 0).mnemonic = .sbc)
theorem EncodedRow.incZp (zp : Byte) : EncodedRow.Statement (.incZp zp) :=
  (rfl : (instrOf 0xE6 0 0).mnemonic = .inc)
theorem EncodedRow.isbZp (zp : Byte) : EncodedRow.Statement (.isbZp zp) :=
  (rfl : (instrOf 0xE7 0 0).mnemonic = .isb)
theorem EncodedRow.inx : EncodedRow.Statement .inx :=
  (rfl : (instrOf 0xE8 0 0).mnemonic = .inx)
theorem EncodedRow.sbcImm (imm : Byte) : EncodedRow.Statement (.sbcImm imm) :=
  (rfl : (instrOf 0xE9 0 0).mnemonic = .sbc)
theorem EncodedRow.nopEA : EncodedRow.Statement .nopEA :=
  (rfl : (instrOf 0xEA 0 0).mnemonic = .nop)
theorem EncodedRow.sbcImmEB (imm : Byte) : EncodedRow.Statement (.sbcImmEB imm) :=
  (rfl : (instrOf 0xEB 0 0).mnemonic = .sbc)
theorem EncodedRow.cpxAbs (addr : Word) : EncodedRow.Statement (.cpxAbs addr) :=
  (rfl : (instrOf 0xEC 0 0).mnemonic = .cpx)
theorem EncodedRow.sbcAbs (addr : Word) : EncodedRow.Statement (.sbcAbs addr) :=
  (rfl : (instrOf 0xED 0 0).mnemonic = .sbc)
theorem EncodedRow.incAbs (addr : Word) : EncodedRow.Statement (.incAbs addr) :=
  (rfl : (instrOf 0xEE 0 0).mnemonic = .inc)
theorem EncodedRow.isbAbs (addr : Word) : EncodedRow.Statement (.isbAbs addr) :=
  (rfl : (instrOf 0xEF 0 0).mnemonic = .isb)
theorem EncodedRow.beq (off : Byte) : EncodedRow.Statement (.beq off) :=
  (rfl : (instrOf 0xF0 0 0).mnemonic = .beq)
theorem EncodedRow.sbcIzy (zp : Byte) : EncodedRow.Statement (.sbcIzy zp) :=
  (rfl : (instrOf 0xF1 0 0).mnemonic = .sbc)
theorem EncodedRow.kilF2 : EncodedRow.Statement .kilF2 :=
  (rfl : (instrOf 0xF2 0 0).mnemonic = .kil)
theorem EncodedRow.isbIzy (zp : Byte) : EncodedRow.Statement (.isbIzy zp) :=
  (rfl : (instrOf 0xF3 0 0).mnemonic = .isb)
theorem EncodedRow.nopZpxF4 (zp : Byte) : EncodedRow.Statement (.nopZpxF4 zp) :=
  (rfl : (instrOf 0xF4 0 0).mnemonic = .nop)
theorem EncodedRow.sbcZpx (zp : Byte) : EncodedRow.Statement (.sbcZpx zp) :=
  (rfl : (instrOf 0xF5 0 0).mnemonic = .sbc)
theorem EncodedRow.incZpx (zp : Byte) : EncodedRow.Statement (.incZpx zp) :=
  (rfl : (instrOf 0xF6 0 0).mnemonic = .inc)
theorem EncodedRow.isbZpx (zp : Byte) : EncodedRow.Statement (.isbZpx zp) :=
  (rfl : (instrOf 0xF7 0 0).mnemonic = .isb)
theorem EncodedRow.sed : EncodedRow.Statement .sed :=
  (rfl : (instrOf 0xF8 0 0).mnemonic = .sed)
theorem EncodedRow.sbcAby (base : Word) : EncodedRow.Statement (.sbcAby base) :=
  (rfl : (instrOf 0xF9 0 0).mnemonic = .sbc)
theorem EncodedRow.nopFA : EncodedRow.Statement .nopFA :=
  (rfl : (instrOf 0xFA 0 0).mnemonic = .nop)
theorem EncodedRow.isbAby (base : Word) : EncodedRow.Statement (.isbAby base) :=
  (rfl : (instrOf 0xFB 0 0).mnemonic = .isb)
theorem EncodedRow.nopAbxFC (base : Word) : EncodedRow.Statement (.nopAbxFC base) :=
  (rfl : (instrOf 0xFC 0 0).mnemonic = .nop)
theorem EncodedRow.sbcAbx (base : Word) : EncodedRow.Statement (.sbcAbx base) :=
  (rfl : (instrOf 0xFD 0 0).mnemonic = .sbc)
theorem EncodedRow.incAbx (base : Word) : EncodedRow.Statement (.incAbx base) :=
  (rfl : (instrOf 0xFE 0 0).mnemonic = .inc)
theorem EncodedRow.isbAbx (base : Word) : EncodedRow.Statement (.isbAbx base) :=
  (rfl : (instrOf 0xFF 0 0).mnemonic = .isb)

end Sys2Proof.Laws
end

