-- ==== Sys2Proof/Laws/Step.lean ====
section
/-! SUPPORT. What every instruction and every step keeps (R21, R30, R31, R53, R100), said once: `Ran`,
its instances for the shared operations, and the parts of a step. -/

namespace Sys2Proof.Machine

/-- What everything between a fetch and the NMI check keeps: the environment, the order of time,
the order of the turns, the latch where no events come, canonical RAM, and that no request is stamped
ahead of now. -/
structure Ran (s t : State) : Prop where
  env : EnvironmentKept s t
  cyc : s.cyc ≤ t.cyc
  turns : t.turns <:+ s.turns
  nmi : s.turns = [] → t.nmi = s.nmi
  wf : s.mem.wf = true → t.mem.wf = true
  stamp : StampNotAhead s → StampNotAhead t

theorem Ran.refl (s : State) : Ran s s :=
  ⟨EnvironmentKept.refl s, Nat.le_refl _, List.suffix_refl _, fun _ => rfl, id, id⟩

theorem Ran.trans {s t u : State} (h : Ran s t) (k : Ran t u) : Ran s u where
  env := h.env.trans k.env
  cyc := Nat.le_trans h.cyc k.cyc
  turns := k.turns.trans h.turns
  nmi e := (k.nmi (List.suffix_nil.mp (e ▸ h.turns))).trans (h.nmi e)
  wf e := k.wf (h.wf e)
  stamp e := k.stamp (h.stamp e)

theorem Ran.regs {s t : State} (d : Did [] [] s t) (hc : t.cyc = s.cyc) (hn : t.nmi = s.nmi) :
    Ran s t :=
  ⟨d.env, Nat.le_of_eq hc.symm, d.turns, d.nmi, d.wf,
    fun h => by unfold StampNotAhead; rw [hn, hc]; exact h⟩

theorem ran_charge (n : Nat) (s : State) : Ran s (charge n s) where
  env := (Did.charge s n).env
  cyc := Nat.le_add_right _ _
  turns := (Did.charge s n).turns
  nmi := (Did.charge s n).nmi
  wf := (Did.charge s n).wf
  stamp h hp := Nat.le_trans (h hp) (Nat.le_add_right _ _)

theorem Handled.toRan {rs : List Reg} {fs : List Flag} {s t : State} (h : Handled rs fs s t)
    (hn : t.nmi = s.nmi) : Ran s t := Ran.regs h.did h.cyc hn

/-! ### The shared operations -/

theorem applyEvents_stamp (es : List Event) (s : State) (h : StampNotAhead s) :
    StampNotAhead (applyEvents es s) := by
  induction es generalizing s with
  | nil => exact h
  | cons e es ih =>
    refine ih _ ?_
    cases e with
    | cancel => intro hp; cases hp
    | interrupt =>
      unfold applyEvent interruptNmi
      simp only
      split
      · split
        · exact h
        · intro _; exact Nat.le_refl _
      · intro _; exact Nat.le_refl _

theorem completeTransaction_stamp (op : BusOp) (s : State) (h : StampNotAhead s) :
    StampNotAhead (completeTransaction op s) := by
  unfold completeTransaction deliverTurn
  split
  · exact h
  · next t ts _ =>
    refine applyEvents_stamp _ _ ?_
    obtain ⟨q, e, _⟩ := applyChanges_quiet t.changes ((s.setTrace (op :: s.trace)).setTurns ts)
    unfold StampNotAhead
    rw [e, q.cyc_eq]
    exact h

theorem memRead_ran {addr : Word} {v : Byte} {s t : State} (h : memRead addr s = .next (v, t)) :
    Ran s t := by
  obtain ⟨q, d, _⟩ := memRead_did h
  refine ⟨d.env, Nat.le_of_eq q.cyc_eq.symm, d.turns, d.nmi, d.wf, fun hs => ?_⟩
  unfold memRead at h
  split at h
  · cases h
  · injection h with h
    injection h with _ h
    rw [← h]
    apply completeTransaction_stamp
    unfold drawForRead
    split <;> exact hs

theorem memWrite_ran {addr : Word} {v : Byte} {s t : State} (h : memWrite addr v s = .next t) :
    Ran s t := by
  obtain ⟨q, d, _⟩ := memWrite_did h
  refine ⟨d.env, Nat.le_of_eq q.cyc_eq.symm, d.turns, d.nmi, d.wf, fun hs => ?_⟩
  unfold memWrite at h
  split at h
  · cases h
  · injection h with h
    rw [← h]
    apply completeTransaction_stamp
    unfold mountStore
    split <;> exact hs

theorem push8_ran {v : Byte} {s t : State} (h : push8 v s = .next t) : Ran s t := by
  obtain ⟨s1, h1, h2⟩ := andThen_eq_next.mp h
  injection h2 with h2
  subst h2
  exact (memWrite_ran h1).trans (Ran.regs (Did.setSp _ _) rfl rfl)

theorem pull8_ran {v : Byte} {s t : State} (h : pull8 s = .next (v, t)) : Ran s t :=
  (Ran.regs (Did.setSp _ _) rfl rfl).trans (memRead_ran (s := s.setSp (s.sp + 1)) h)

theorem push16_ran {v : Word} {s t : State} (h : push16 v s = .next t) : Ran s t := by
  obtain ⟨s1, h1, h2⟩ := andThen_eq_next.mp h
  exact (push8_ran h1).trans (push8_ran h2)

theorem pull16_ran {v : Word} {s t : State} (h : pull16 s = .next (v, t)) : Ran s t := by
  obtain ⟨⟨_, s1⟩, h1, h2⟩ := andThen_eq_next.mp h
  obtain ⟨⟨_, s2⟩, h3, h4⟩ := andThen_eq_next.mp h2
  injection h4 with h4
  injection h4 with _ h4
  subst h4
  exact (pull8_ran h1).trans (pull8_ran h3)

theorem loadVector_ran {vec : Word} {s t : State} (h : loadVector vec s = .next t) : Ran s t := by
  obtain ⟨⟨_, s1⟩, h1, h2⟩ := andThen_eq_next.mp h
  obtain ⟨⟨_, s2⟩, h3, h4⟩ := andThen_eq_next.mp h2
  injection h4 with h4
  subst h4
  exact ((memRead_ran h1).trans (memRead_ran h3)).trans (Ran.regs (Did.setPc _ _) rfl rfl)

theorem trapEntry_ran {ret vec : Word} {p : Byte} {s t : State}
    (h : trapEntry ret p vec s = .next t) : Ran s t := by
  obtain ⟨s1, h1, h2⟩ := andThen_eq_next.mp h
  obtain ⟨s2, h3, h4⟩ := andThen_eq_next.mp h2
  exact ((push16_ran h1).trans (push8_ran h3)).trans
    ((Ran.regs (Did.setFlag _ _ _) rfl rfl).trans (loadVector_ran h4))

theorem trapReturn_ran {s t : State} (h : trapReturn s = .next t) : Ran s t := by
  obtain ⟨⟨v, s1⟩, h1, h2⟩ := andThen_eq_next.mp h
  obtain ⟨⟨_, s2⟩, h3, h4⟩ := andThen_eq_next.mp h2
  injection h4 with h4
  subst h4
  exact ((pull8_ran h1).trans ((Ran.regs (Did.setP _ (restoredP v)) rfl rfl).trans
    (pull16_ran h3))).trans (Ran.regs (Did.setPc _ _) rfl rfl)

theorem zeroPagePointer_ran {z : Byte} {s t : State} {ea : Word}
    (h : zeroPagePointer z s = .next (ea, t)) : Ran s t := by
  obtain ⟨⟨_, s1⟩, h1, h2⟩ := andThen_eq_next.mp h
  obtain ⟨⟨_, s2⟩, h3, h4⟩ := andThen_eq_next.mp h2
  injection h4 with h4
  injection h4 with _ h4
  subst h4
  exact (memRead_ran h1).trans (memRead_ran h3)

theorem resolve_ran {m : AddrMode} {s t : State} {ea : Word} (h : resolve m s = .next (ea, t)) :
    Ran s t := by
  cases m <;> unfold resolve at h
  case ind =>
    obtain ⟨⟨_, s1⟩, h1, h2⟩ := andThen_eq_next.mp h
    obtain ⟨⟨_, s2⟩, h3, h4⟩ := andThen_eq_next.mp h2
    injection h4 with h4
    injection h4 with _ h4
    subst h4
    exact (memRead_ran h1).trans (memRead_ran h3)
  case izx | izy =>
    obtain ⟨⟨_, s1⟩, h1, h2⟩ := andThen_eq_next.mp h
    injection h2 with h2
    injection h2 with _ h2
    subst h2
    exact (zeroPagePointer_ran h1).trans (ran_charge _ _)
  all_goals
    injection h with h
    injection h with _ h
    subst h
    first | exact Ran.refl _ | exact ran_charge _ _

theorem readSource_ran {src : Source} {s t : State} {v : Byte}
    (h : readSource src s = .next (v, t)) : Ran s t := by
  cases src
  · injection h with h
    injection h with _ h
    subst h
    exact Ran.refl _
  · obtain ⟨⟨_, s1⟩, h1, h2⟩ := andThen_eq_next.mp h
    exact (resolve_ran h1).trans (memRead_ran h2)

/-! ### The handlers -/

theorem readingHandler_nmi {mn : Mnemonic} {h : Byte → State → State}
    (hm : readingHandler mn = some h) (m : Byte) (s : State) : (h m s).nmi = s.nmi := by
  cases mn <;> simp only [readingHandler, reduceCtorEq, Option.some.injEq] at hm <;> subst hm <;> rfl

theorem admittedHandler_nmi {mn : Mnemonic} {h : Byte → State → State}
    (hm : admittedHandler mn = some h) (m : Byte) (s : State) : (h m s).nmi = s.nmi := by
  cases mn <;> simp only [admittedHandler, reduceCtorEq, Option.some.injEq] at hm <;> subst hm <;> rfl

theorem modifying_nmi {mn : Mnemonic} {r f} (hm : modifying mn = some (r, f)) (v w : Byte)
    (s : State) : (f v w s).nmi = s.nmi := by
  cases mn <;> simp only [modifying, reduceCtorEq, Option.some.injEq, Prod.mk.injEq] at hm <;>
    obtain ⟨_, hm⟩ := hm <;> subst hm <;> rfl

theorem impliedHandler_nmi {mn : Mnemonic} {h : State → State}
    (hm : impliedHandler mn = some h) (s : State) : (h s).nmi = s.nmi := by
  cases mn <;> simp only [impliedHandler, reduceCtorEq, Option.some.injEq] at hm <;> subst hm <;> rfl

theorem modifyAt_ran {mn : Mnemonic} {loc : Loc} {r f} {s t : State}
    (hm : modifying mn = some (r, f)) (h : modifyAt loc r f s = .next t) : Ran s t := by
  obtain ⟨⟨v, s1⟩, h1, h2⟩ := andThen_eq_next.mp h
  obtain ⟨s2, h3, h4⟩ := andThen_eq_next.mp h2
  injection h4 with h4
  subst h4
  have k := (modifying_handled hm v (r v s1) s2).toRan (modifying_nmi hm _ _ _)
  refine Ran.trans ?_ k
  cases loc with
  | acc =>
    injection h1 with h1
    injection h1 with _ h1
    subst h1
    injection h3 with h3
    subst h3
    exact Ran.regs (Did.setA _ _) rfl rfl
  | mem ea => exact (memRead_ran h1).trans (memWrite_ran h3)

theorem branch_ran {f : Flag} {b : Bool} {target : Word} {s t : State}
    (h : branch f b target s = .next t) : Ran s t := by
  unfold branch at h
  split at h <;> injection h with h <;> subst h
  · exact (ran_charge _ _).trans (Ran.regs (Did.setPc _ _) rfl rfl)
  · exact Ran.refl _

theorem addressHandler_ran {mn : Mnemonic} {h} {ea : Word} {s t : State}
    (hm : addressHandler mn = some h) (he : h ea s = .next t) : Ran s t := by
  cases mn <;> simp only [addressHandler, reduceCtorEq, Option.some.injEq] at hm <;> subst hm
  case jmp => injection he with he; subst he; exact Ran.regs (Did.setPc _ _) rfl rfl
  case jsr =>
    obtain ⟨s1, h1, h2⟩ := andThen_eq_next.mp he
    injection h2 with h2
    subst h2
    exact (push16_ran h1).trans (Ran.regs (Did.setPc _ _) rfl rfl)
  case nop => injection he with he; subst he; exact Ran.refl _
  all_goals exact branch_ran he

theorem systemHandler_ran {mn : Mnemonic} {h} {s t : State} (hm : systemHandler mn = some h)
    (he : h s = .next t) : Ran s t := by
  cases mn <;> simp only [systemHandler, reduceCtorEq, Option.some.injEq] at hm <;> subst hm
  case rts =>
    obtain ⟨⟨_, s1⟩, h1, h2⟩ := andThen_eq_next.mp he
    injection h2 with h2
    subst h2
    exact (pull16_ran h1).trans (Ran.regs (Did.setPc _ _) rfl rfl)
  case pla =>
    obtain ⟨⟨v, s1⟩, h1, h2⟩ := andThen_eq_next.mp he
    injection h2 with h2
    subst h2
    exact (pull8_ran h1).trans (Ran.regs ((Did.setA _ v).trans (Did.setNZ _ v)) rfl rfl)
  case plp =>
    obtain ⟨⟨v, s1⟩, h1, h2⟩ := andThen_eq_next.mp he
    injection h2 with h2
    subst h2
    exact (pull8_ran h1).trans (Ran.regs (Did.setP _ _) rfl rfl)
  case rti => exact trapReturn_ran he
  case brk => exact trapEntry_ran he
  all_goals exact push8_ran he

/-! ### Instructions and steps -/

/-- An instruction that answers: what its handler leaves is `Ran`, and its base cost comes last
(R100). -/
theorem exec_ran {i : Instr} {s t : State} (h : exec i s = .next t) :
    ∃ u, Ran s u ∧ t = chargeBase i.opcode u := by
  rcases exec_shape i with ⟨hd, src, hm, hs⟩ | ⟨hd, src, hm, hs⟩ | ⟨v, m, hm, hs⟩ |
    ⟨r, f, d, hm, hs⟩ | ⟨m1, m2, r, f, hd, m, hm, h1, h2, hs⟩ | ⟨m, hm, hs⟩ | ⟨hd, hm⟩ |
    ⟨hm, hs⟩ | ⟨hd, m, hm, hs⟩ | ⟨hd, hm⟩ | hm
  · rw [exec_reading hm hs] at h
    obtain ⟨⟨v, s1⟩, h1, h2⟩ := andThen_eq_next.mp h
    injection h2 with h2
    exact ⟨_, (readSource_ran h1).trans
      ((readingHandler_handled hm v s1).toRan (readingHandler_nmi hm _ _)), h2.symm⟩
  · rw [exec_admitted hm hs] at h
    unfold admittedOp at h
    split at h
    · obtain ⟨⟨v, s1⟩, h1, h2⟩ := andThen_eq_next.mp h
      injection h2 with h2
      exact ⟨_, (readSource_ran h1).trans
        ((admittedHandler_handled hm v s1).toRan (admittedHandler_nmi hm _ _)), h2.symm⟩
    · cases h
  · rw [exec_storing hm hs] at h
    obtain ⟨⟨ea, s1⟩, h1, h2⟩ := andThen_eq_next.mp h
    obtain ⟨s2, h3, h4⟩ := andThen_eq_next.mp h2
    injection h4 with h4
    exact ⟨_, (resolve_ran h1).trans (memWrite_ran h3), h4.symm⟩
  · rw [exec_modifying hm hs] at h
    obtain ⟨⟨loc, s1⟩, h1, h2⟩ := andThen_eq_next.mp h
    obtain ⟨s2, h3, h4⟩ := andThen_eq_next.mp h2
    injection h4 with h4
    refine ⟨_, Ran.trans ?_ (modifyAt_ran hm h3), h4.symm⟩
    cases d with
    | acc =>
      injection h1 with h1
      injection h1 with _ h1
      subst h1
      exact Ran.refl _
    | mem m =>
      obtain ⟨⟨ea, s0⟩, h5, h6⟩ := andThen_eq_next.mp h1
      injection h6 with h6
      injection h6 with _ h6
      subst h6
      exact resolve_ran h5
  · rw [exec_combining hm h1 h2 hs] at h
    obtain ⟨⟨ea, s1⟩, e1, e2⟩ := andThen_eq_next.mp h
    obtain ⟨s2, e3, e4⟩ := andThen_eq_next.mp e2
    obtain ⟨⟨v, s3⟩, e5, e6⟩ := andThen_eq_next.mp e4
    injection e6 with e6
    exact ⟨_, (((resolve_ran e1).trans (modifyAt_ran h1 e3)).trans (memRead_ran e5)).trans
      ((readingHandler_handled h2 v s3).toRan (readingHandler_nmi h2 _ _)), e6.symm⟩
  · rw [exec_lax hm hs] at h
    obtain ⟨⟨ea, s1⟩, e1, e2⟩ := andThen_eq_next.mp h
    obtain ⟨⟨v, s2⟩, e3, e4⟩ := andThen_eq_next.mp e2
    obtain ⟨⟨w, s3⟩, e5, e6⟩ := andThen_eq_next.mp e4
    injection e6 with e6
    exact ⟨_, (((resolve_ran e1).trans (memRead_ran e3)).trans
      ((ldaWith_handled v s2).toRan rfl)).trans
      ((memRead_ran e5).trans ((ldxWith_handled w s3).toRan rfl)), e6.symm⟩
  · rw [exec_implied hm] at h
    injection h with h
    exact ⟨_, (impliedHandler_handled hm s).toRan (impliedHandler_nmi hm _), h.symm⟩
  · rw [exec_nop hm hs] at h
    injection h with h
    exact ⟨_, Ran.refl _, h.symm⟩
  · rw [exec_address hm hs] at h
    obtain ⟨⟨ea, s1⟩, e1, e2⟩ := andThen_eq_next.mp h
    obtain ⟨s2, e3, e4⟩ := andThen_eq_next.mp e2
    injection e4 with e4
    exact ⟨_, (resolve_ran e1).trans (addressHandler_ran hm e3), e4.symm⟩
  · rw [exec_system hm] at h
    obtain ⟨s2, e3, e4⟩ := andThen_eq_next.mp h
    injection e4 with e4
    exact ⟨_, systemHandler_ran hm e3, e4.symm⟩
  · rw [exec_refused hm] at h; cases h

/-- A fetch that answers: reads only, P and `cyc` as before. -/
theorem fetch_ran {s t : State} {i : Instr} (h : fetch s = .next (i, t)) :
    Ran s t ∧ t.p = s.p ∧ t.cyc = s.cyc := by
  obtain ⟨⟨op, s1⟩, h1, h2⟩ := andThen_eq_next.mp h
  obtain ⟨q1, _, _⟩ := memRead_did h1
  have base : Ran s (s1.setPc (s1.pc + 1)) :=
    (memRead_ran h1).trans (Ran.regs (Did.setPc _ _) rfl rfl)
  have hp : s1.p = s.p := q1.p_eq
  have hc : s1.cyc = s.cyc := q1.cyc_eq
  simp only [fetchOperand] at h2
  split at h2
  · injection h2 with h2
    injection h2 with _ h2
    subst h2
    exact ⟨base, hp, hc⟩
  · split at h2
    · injection h2 with h2
      injection h2 with _ h2
      subst h2
      exact ⟨base, hp, hc⟩
    · injection h2 with h2
      injection h2 with _ h2
      subst h2
      exact ⟨base, hp, hc⟩
    · unfold fetchImmediate at h2
      split at h2
      · injection h2 with h2
        injection h2 with _ h2
        subst h2
        exact ⟨base.trans (Ran.regs (Did.setPc _ _) rfl rfl), hp, hc⟩
      · obtain ⟨⟨b, s2⟩, h3, h4⟩ := andThen_eq_next.mp h2
        injection h4 with h4
        injection h4 with _ h4
        subst h4
        obtain ⟨q2, _, _⟩ := memRead_did h3
        exact ⟨base.trans ((Ran.regs (Did.setPc _ _) rfl rfl).trans (memRead_ran h3)),
          q2.p_eq.trans hp, q2.cyc_eq.trans hc⟩
    · split at h2
      · obtain ⟨⟨b, s2⟩, h3, h4⟩ := andThen_eq_next.mp h2
        injection h4 with h4
        injection h4 with _ h4
        subst h4
        obtain ⟨q2, _, _⟩ := memRead_did h3
        exact ⟨base.trans ((memRead_ran h3).trans (Ran.regs (Did.setPc _ _) rfl rfl)),
          q2.p_eq.trans hp, q2.cyc_eq.trans hc⟩
      · obtain ⟨⟨b, s2⟩, h3, h4⟩ := andThen_eq_next.mp h2
        obtain ⟨⟨b', s3⟩, h5, h6⟩ := andThen_eq_next.mp h4
        injection h6 with h6
        injection h6 with _ h6
        subst h6
        obtain ⟨q2, _, _⟩ := memRead_did h3
        obtain ⟨q3, _, _⟩ := memRead_did h5
        exact ⟨base.trans (((memRead_ran h3).trans (memRead_ran h5)).trans
            (Ran.regs (Did.setPc _ _) rfl rfl)),
          q3.p_eq.trans (q2.p_eq.trans hp), q3.cyc_eq.trans (q2.cyc_eq.trans hc)⟩

/-- The check of a finite cycle counter changes nothing where it answers. -/
theorem checkCycleWidth_next {s t : State} (h : checkCycleWidth s = .next t) : t = s := by
  unfold checkCycleWidth at h
  split at h
  · injection h with h; exact h.symm
  · split at h
    · injection h with h; exact h.symm
    · cases h

/-- The parts of a step that answers: boundary, fetch, execution, NMI check. -/
theorem step_parts {s t : State} (h : step s = .next t) :
    s.status = .running ∧ ∃ s0 i s1 s2, boundary s = .next s0 ∧ s0.booted = true ∧
      fetch s0 = .next (i, s1) ∧ exec i s1 = .next s2 ∧ nmiCheck s2 = .next t := by
  unfold step at h
  split at h
  · cases h
  · next hs =>
    obtain ⟨s0, h1, h2⟩ := andThen_eq_next.mp h
    split at h2
    · next hb =>
      obtain ⟨⟨i, s1⟩, h3, h4⟩ := andThen_eq_next.mp h2
      obtain ⟨s2, h5, h6⟩ := andThen_eq_next.mp h4
      obtain ⟨s3, h7, h8⟩ := andThen_eq_next.mp h6
      rw [checkCycleWidth_next h8]
      exact ⟨hs, s0, i, s1, s2, h1, hb, h3, h5, h7⟩
    · cases h2

end Sys2Proof.Machine
end

