-- ==== Sys2Proof/Laws/Values.lean ====
section
/-! SUPPORT. What the flag and result computations amount to as numbers (R13, R28, R105 to R114,
R130 to R154): the lemmas that a proof about a value cites. -/

namespace Sys2Proof.Machine

/-! ### N and Z -/

theorem showsNZ_of {v : Byte} {t : State} (hn : flag .n t = v.getLsbD 7) (hz : flag .z t = (v == 0)) :
    ShowsNZ v t := by
  refine ⟨by rw [hn, getLsbD_seven], ?_⟩
  rw [hz]; exact Bool.eq_iff_iff.mpr (by simp)

theorem setNZ_shows (v : Byte) (s : State) : ShowsNZ v (setNZ v s) :=
  showsNZ_of (by simp) (by simp)

/-! ### Addition, subtraction, compare -/

theorem carryNat_eq (s : State) : carryNat s = (flag .c s).toNat := by
  unfold carryNat; cases flag .c s <;> rfl

theorem msb_same (a b : Byte) :
    (a.getLsbD 7 == b.getLsbD 7) = decide (128 ≤ a.toNat ↔ 128 ≤ b.toNat) := by
  rw [getLsbD_seven, getLsbD_seven]
  by_cases h : 128 ≤ a.toNat <;> by_cases k : 128 ≤ b.toNat <;> simp [h, k]

theorem msb_differ (a b : Byte) :
    (a.getLsbD 7 != b.getLsbD 7) = decide ¬(128 ≤ a.toNat ↔ 128 ≤ b.toNat) := by
  rw [bne, msb_same]; simp only [decide_not]

theorem adcWith_shows (m : Byte) (s : State) :
    ShowsSum s.a m (flag .c s).toNat (adcWith m s) := by
  refine ⟨?_, ?_, ?_, ?_⟩
  · simp [adcWith, adcSum, carryNat_eq]
  · simp [adcWith, setNZ, flag_setFlag, adcSum, carryNat_eq]
  · have : (adcWith m s).a = BitVec.ofNat 8 (adcSum m s) := by simp [adcWith]
    rw [this, ← msb_same, ← msb_differ]
    simp [adcWith, setNZ, flag_setFlag, addOverflowed]
  · apply showsNZ_of <;> simp [adcWith]

theorem sbcWith_shows (m : Byte) (s : State) :
    ShowsDifference s.a m (flag .c s).toNat (sbcWith m s) := by
  refine ⟨?_, ?_, ?_, ?_⟩
  · simp [sbcWith, sbcDiff, carryNat_eq]
    omega
  · simp [sbcWith, setNZ, flag_setFlag, sbcDiff, carryNat_eq]
  · have : (sbcWith m s).a = BitVec.ofInt 8 (sbcDiff m s) := by simp [sbcWith]
    rw [this, ← msb_same, ← msb_differ]
    simp [sbcWith, setNZ, flag_setFlag, subtractOverflowed]
  · apply showsNZ_of <;> simp [sbcWith]

theorem compareWith_shows (r m : Byte) (s : State) : ShowsCompare r m (compareWith r m s) := by
  refine ⟨by simp [compareWith, setNZ, flag_setFlag], ?_⟩
  apply showsNZ_of <;> simp [compareWith]

/-! ### Shifts -/

theorem bit0_toNat : ∀ v : Byte, v.getLsbD 0 = decide (v.toNat % 2 = 1) := by decide

theorem bit6_toNat : ∀ v : Byte, v.getLsbD 6 = decide (64 ≤ v.toNat % 128) := by decide

theorem shiftLeft_toNat : ∀ v : Byte, (v <<< 1).toNat = v.toNat * 2 % 256 := by decide

theorem shiftRight_toNat : ∀ v : Byte, (v >>> 1).toNat = v.toNat / 2 := by decide

theorem rotateLeft_toNat : ∀ (v : Byte) (c : Bool),
    ((v <<< 1) ||| (if c then 1 else 0 : Byte)).toNat = v.toNat * 2 % 256 + c.toNat := by decide

theorem rotateRight_toNat : ∀ (v : Byte) (c : Bool),
    ((v >>> 1) ||| ((if c then 1 else 0 : Byte) <<< 7)).toNat = v.toNat / 2 + c.toNat * 128 := by
  decide

/-! ### The byte PLP and RTI restore -/

theorem restoredP_bit (v : Byte) {f : Flag} (hu : f ≠ .u) (hb : f ≠ .b) :
    (restoredP v).getLsbD f.index = v.getLsbD f.index := by
  unfold restoredP
  cases f <;> simp [Flag.index] at hu hb ⊢

theorem restoredP_u (v : Byte) : (restoredP v).getLsbD 5 = true := by unfold restoredP; simp

theorem restoredP_b (v : Byte) : (restoredP v).getLsbD 4 = false := by unfold restoredP; simp

/-! ### Addresses -/

theorem zext16_toNat (z : Byte) : (zext16 z).toNat = z.toNat := by
  unfold zext16
  rw [BitVec.toNat_setWidth]
  have := z.isLt
  omega

/-- A branch target as a number (R114). -/
theorem relative_toNat (pc : Word) (off : Byte) :
    ((pc + sext16 off).toNat : Int) = ((pc.toNat : Int) + off.toInt) % 65536 := by
  unfold sext16
  have h1 : (off.signExtend 16).toInt = off.toInt := by
    rw [BitVec.toInt_signExtend_of_le (by decide)]
  have h2 : ((pc + off.signExtend 16).toNat : Int) = (pc + off.signExtend 16).toInt % 65536 := by
    rw [BitVec.toInt_eq_toNat_bmod]
    have := (pc + off.signExtend 16).isLt
    rw [Int.bmod_def]; split <;> omega
  have h3 : (pc.toNat : Int) % 65536 = pc.toInt % 65536 := by
    rw [BitVec.toInt_eq_toNat_bmod]
    have := pc.isLt
    rw [Int.bmod_def]; split <;> omega
  rw [h2, BitVec.toInt_add, h1, Int.bmod_def]
  split <;> omega

theorem page_ne_iff (a b : Word) : (page a ≠ page b) ↔ ¬ (a.toNat / 256 = b.toNat / 256) := by
  unfold page
  rw [ne_eq, not_congr]
  rw [← highByte_toNat, ← highByte_toNat]
  exact ⟨fun h => by rw [h], fun h => BitVec.eq_of_toNat_eq h⟩

theorem crossing_eq (base ea : Word) :
    crossing base ea = if ea.toNat / 256 = base.toNat / 256 then 0 else 1 := by
  unfold crossing; simp only [page_ne_iff]; split <;> simp_all

end Sys2Proof.Machine
end

