-- ==== Sys2Proof/Tests/Slice0.lean ====
section
/-! SUPPORT. Tests: the platform checks, the opcode matrix (R84), vectors of 95_test_vectors.md (the id
stands in each name), and for each statement with hypotheses a state and operands that meet them. -/

namespace Sys2Proof.Tests

open Sys2Proof.Machine

/-! ### What the checks refuse -/

/-- R60 (a): an inverted range is refused (log 21). -/
theorem test_wf_refuses_inverted_range :
    mountsWf [{ first := 0x2000, last := 0x1FFF, device := .external }] = false := by decide

/-- R60 (a), R274: two mounts that share one address are refused. -/
theorem test_wf_refuses_overlap :
    mountsWf [{ first := 0x0000, last := 0x07FF, device := .ram 0x07FF },
      { first := 0x07FF, last := 0x1FFF, device := .external }] = false := by decide

/-- R60 (e): the placement the spec gives as typical is accepted. -/
theorem test_wf_accepts_disjoint :
    mountsWf [{ first := 0x0000, last := 0x1FFF, device := .ram 0x07FF },
      { first := 0x2000, last := 0x3FFF, device := .external },
      { first := 0x8000, last := 0xFFFF, device := .external }] = true := by decide

/-- R86: there is no ill-formed instruction; what the decoder refuses is a list of too few bytes. -/
theorem test_decode_refuses_missing_bytes :
    decode [] = .error .noBytes ∧ decode [0x4C, 0xEF] = .error (.truncated 0x4C 3) := ⟨rfl, rfl⟩

/-! ### Decoding: the opcode matrix of R84, row by row

The operand byte is 34 and the operand word BEEF (bytes EF BE). -/

theorem test_decode_row_0 :
    [(8, 0x00), (16, 0x3401), (8, 0x02), (16, 0x3403), (16, 0x3404), (16, 0x3405),
     (16, 0x3406), (16, 0x3407), (8, 0x08), (16, 0x3409), (8, 0x0A), (16, 0x340B),
     (24, 0xBEEF0C), (24, 0xBEEF0D), (24, 0xBEEF0E), (24, 0xBEEF0F)].map (fun w => decodeTableWord w.1 w.2) =
    ([.brk, .oraIzx 0x34, .kil02, .sloIzx 0x34, .nopZp04 0x34, .oraZp 0x34, .aslZp 0x34,
      .sloZp 0x34, .php, .oraImm 0x34, .aslAcc, .aacImm0B 0x34, .nopAbs 0xBEEF,
      .oraAbs 0xBEEF, .aslAbs 0xBEEF, .sloAbs 0xBEEF] : List Instr).map some := by decide

theorem test_decode_row_1 :
    [(16, 0x3410), (16, 0x3411), (8, 0x12), (16, 0x3413), (16, 0x3414), (16, 0x3415),
     (16, 0x3416), (16, 0x3417), (8, 0x18), (24, 0xBEEF19), (8, 0x1A), (24, 0xBEEF1B),
     (24, 0xBEEF1C), (24, 0xBEEF1D), (24, 0xBEEF1E), (24, 0xBEEF1F)].map (fun w => decodeTableWord w.1 w.2) =
    ([.bpl 0x34, .oraIzy 0x34, .kil12, .sloIzy 0x34, .nopZpx14 0x34, .oraZpx 0x34,
      .aslZpx 0x34, .sloZpx 0x34, .clc, .oraAby 0xBEEF, .nop1A, .sloAby 0xBEEF,
      .nopAbx1C 0xBEEF, .oraAbx 0xBEEF, .aslAbx 0xBEEF, .sloAbx 0xBEEF] : List Instr).map some := by decide

theorem test_decode_row_2 :
    [(24, 0xBEEF20), (16, 0x3421), (8, 0x22), (16, 0x3423), (16, 0x3424), (16, 0x3425),
     (16, 0x3426), (16, 0x3427), (8, 0x28), (16, 0x3429), (8, 0x2A), (16, 0x342B),
     (24, 0xBEEF2C), (24, 0xBEEF2D), (24, 0xBEEF2E), (24, 0xBEEF2F)].map (fun w => decodeTableWord w.1 w.2) =
    ([.jsr 0xBEEF, .andIzx 0x34, .kil22, .rlaIzx 0x34, .bitZp 0x34, .andZp 0x34, .rolZp 0x34,
      .rlaZp 0x34, .plp, .andImm 0x34, .rolAcc, .aacImm2B 0x34, .bitAbs 0xBEEF,
      .andAbs 0xBEEF, .rolAbs 0xBEEF, .rlaAbs 0xBEEF] : List Instr).map some := by decide

theorem test_decode_row_3 :
    [(16, 0x3430), (16, 0x3431), (8, 0x32), (16, 0x3433), (16, 0x3434), (16, 0x3435),
     (16, 0x3436), (16, 0x3437), (8, 0x38), (24, 0xBEEF39), (8, 0x3A), (24, 0xBEEF3B),
     (24, 0xBEEF3C), (24, 0xBEEF3D), (24, 0xBEEF3E), (24, 0xBEEF3F)].map (fun w => decodeTableWord w.1 w.2) =
    ([.bmi 0x34, .andIzy 0x34, .kil32, .rlaIzy 0x34, .nopZpx34 0x34, .andZpx 0x34,
      .rolZpx 0x34, .rlaZpx 0x34, .sec, .andAby 0xBEEF, .nop3A, .rlaAby 0xBEEF,
      .nopAbx3C 0xBEEF, .andAbx 0xBEEF, .rolAbx 0xBEEF, .rlaAbx 0xBEEF] : List Instr).map some := by decide

theorem test_decode_row_4 :
    [(8, 0x40), (16, 0x3441), (8, 0x42), (16, 0x3443), (16, 0x3444), (16, 0x3445),
     (16, 0x3446), (16, 0x3447), (8, 0x48), (16, 0x3449), (8, 0x4A), (16, 0x344B),
     (24, 0xBEEF4C), (24, 0xBEEF4D), (24, 0xBEEF4E), (24, 0xBEEF4F)].map (fun w => decodeTableWord w.1 w.2) =
    ([.rti, .eorIzx 0x34, .kil42, .sreIzx 0x34, .nopZp44 0x34, .eorZp 0x34, .lsrZp 0x34,
      .sreZp 0x34, .pha, .eorImm 0x34, .lsrAcc, .asr 0x34, .jmpAbs 0xBEEF, .eorAbs 0xBEEF,
      .lsrAbs 0xBEEF, .sreAbs 0xBEEF] : List Instr).map some := by decide

theorem test_decode_row_5 :
    [(16, 0x3450), (16, 0x3451), (8, 0x52), (16, 0x3453), (16, 0x3454), (16, 0x3455),
     (16, 0x3456), (16, 0x3457), (8, 0x58), (24, 0xBEEF59), (8, 0x5A), (24, 0xBEEF5B),
     (24, 0xBEEF5C), (24, 0xBEEF5D), (24, 0xBEEF5E), (24, 0xBEEF5F)].map (fun w => decodeTableWord w.1 w.2) =
    ([.bvc 0x34, .eorIzy 0x34, .kil52, .sreIzy 0x34, .nopZpx54 0x34, .eorZpx 0x34,
      .lsrZpx 0x34, .sreZpx 0x34, .cli, .eorAby 0xBEEF, .nop5A, .sreAby 0xBEEF,
      .nopAbx5C 0xBEEF, .eorAbx 0xBEEF, .lsrAbx 0xBEEF, .sreAbx 0xBEEF] : List Instr).map some := by decide

theorem test_decode_row_6 :
    [(8, 0x60), (16, 0x3461), (8, 0x62), (16, 0x3463), (16, 0x3464), (16, 0x3465),
     (16, 0x3466), (16, 0x3467), (8, 0x68), (16, 0x3469), (8, 0x6A), (16, 0x346B),
     (24, 0xBEEF6C), (24, 0xBEEF6D), (24, 0xBEEF6E), (24, 0xBEEF6F)].map (fun w => decodeTableWord w.1 w.2) =
    ([.rts, .adcIzx 0x34, .kil62, .rraIzx 0x34, .nopZp64 0x34, .adcZp 0x34, .rorZp 0x34,
      .rraZp 0x34, .pla, .adcImm 0x34, .rorAcc, .arr 0x34, .jmpInd 0xBEEF, .adcAbs 0xBEEF,
      .rorAbs 0xBEEF, .rraAbs 0xBEEF] : List Instr).map some := by decide

theorem test_decode_row_7 :
    [(16, 0x3470), (16, 0x3471), (8, 0x72), (16, 0x3473), (16, 0x3474), (16, 0x3475),
     (16, 0x3476), (16, 0x3477), (8, 0x78), (24, 0xBEEF79), (8, 0x7A), (24, 0xBEEF7B),
     (24, 0xBEEF7C), (24, 0xBEEF7D), (24, 0xBEEF7E), (24, 0xBEEF7F)].map (fun w => decodeTableWord w.1 w.2) =
    ([.bvs 0x34, .adcIzy 0x34, .kil72, .rraIzy 0x34, .nopZpx74 0x34, .adcZpx 0x34,
      .rorZpx 0x34, .rraZpx 0x34, .sei, .adcAby 0xBEEF, .nop7A, .rraAby 0xBEEF,
      .nopAbx7C 0xBEEF, .adcAbx 0xBEEF, .rorAbx 0xBEEF, .rraAbx 0xBEEF] : List Instr).map some := by decide

theorem test_decode_row_8 :
    [(16, 0x3480), (16, 0x3481), (16, 0x3482), (16, 0x3483), (16, 0x3484), (16, 0x3485),
     (16, 0x3486), (16, 0x3487), (8, 0x88), (16, 0x3489), (8, 0x8A), (16, 0x348B),
     (24, 0xBEEF8C), (24, 0xBEEF8D), (24, 0xBEEF8E), (24, 0xBEEF8F)].map (fun w => decodeTableWord w.1 w.2) =
    ([.nopImm80 0x34, .staIzx 0x34, .nopImm82 0x34, .saxIzx 0x34, .styZp 0x34, .staZp 0x34,
      .stxZp 0x34, .saxZp 0x34, .dey, .nopImm89 0x34, .txa, .xaa 0x34, .styAbs 0xBEEF,
      .staAbs 0xBEEF, .stxAbs 0xBEEF, .saxAbs 0xBEEF] : List Instr).map some := by decide

theorem test_decode_row_9 :
    [(16, 0x3490), (16, 0x3491), (8, 0x92), (16, 0x3493), (16, 0x3494), (16, 0x3495),
     (16, 0x3496), (16, 0x3497), (8, 0x98), (24, 0xBEEF99), (8, 0x9A), (24, 0xBEEF9B),
     (24, 0xBEEF9C), (24, 0xBEEF9D), (24, 0xBEEF9E), (24, 0xBEEF9F)].map (fun w => decodeTableWord w.1 w.2) =
    ([.bcc 0x34, .staIzy 0x34, .kil92, .axaIzy 0x34, .styZpx 0x34, .staZpx 0x34,
      .stxZpy 0x34, .saxZpy 0x34, .tya, .staAby 0xBEEF, .txs, .xas 0xBEEF, .sya 0xBEEF,
      .staAbx 0xBEEF, .sxa 0xBEEF, .axaAby 0xBEEF] : List Instr).map some := by decide

theorem test_decode_row_A :
    [(16, 0x34A0), (16, 0x34A1), (16, 0x34A2), (16, 0x34A3), (16, 0x34A4), (16, 0x34A5),
     (16, 0x34A6), (16, 0x34A7), (8, 0xA8), (16, 0x34A9), (8, 0xAA), (16, 0x34AB),
     (24, 0xBEEFAC), (24, 0xBEEFAD), (24, 0xBEEFAE), (24, 0xBEEFAF)].map (fun w => decodeTableWord w.1 w.2) =
    ([.ldyImm 0x34, .ldaIzx 0x34, .ldxImm 0x34, .laxIzx 0x34, .ldyZp 0x34, .ldaZp 0x34,
      .ldxZp 0x34, .laxZp 0x34, .tay, .ldaImm 0x34, .tax, .atx 0x34, .ldyAbs 0xBEEF,
      .ldaAbs 0xBEEF, .ldxAbs 0xBEEF, .laxAbs 0xBEEF] : List Instr).map some := by decide

theorem test_decode_row_B :
    [(16, 0x34B0), (16, 0x34B1), (8, 0xB2), (16, 0x34B3), (16, 0x34B4), (16, 0x34B5),
     (16, 0x34B6), (16, 0x34B7), (8, 0xB8), (24, 0xBEEFB9), (8, 0xBA), (24, 0xBEEFBB),
     (24, 0xBEEFBC), (24, 0xBEEFBD), (24, 0xBEEFBE), (24, 0xBEEFBF)].map (fun w => decodeTableWord w.1 w.2) =
    ([.bcs 0x34, .ldaIzy 0x34, .kilB2, .laxIzy 0x34, .ldyZpx 0x34, .ldaZpx 0x34,
      .ldxZpy 0x34, .laxZpy 0x34, .clv, .ldaAby 0xBEEF, .tsx, .lar 0xBEEF, .ldyAbx 0xBEEF,
      .ldaAbx 0xBEEF, .ldxAby 0xBEEF, .laxAby 0xBEEF] : List Instr).map some := by decide

theorem test_decode_row_C :
    [(16, 0x34C0), (16, 0x34C1), (16, 0x34C2), (16, 0x34C3), (16, 0x34C4), (16, 0x34C5),
     (16, 0x34C6), (16, 0x34C7), (8, 0xC8), (16, 0x34C9), (8, 0xCA), (16, 0x34CB),
     (24, 0xBEEFCC), (24, 0xBEEFCD), (24, 0xBEEFCE), (24, 0xBEEFCF)].map (fun w => decodeTableWord w.1 w.2) =
    ([.cpyImm 0x34, .cmpIzx 0x34, .nopImmC2 0x34, .dcpIzx 0x34, .cpyZp 0x34, .cmpZp 0x34,
      .decZp 0x34, .dcpZp 0x34, .iny, .cmpImm 0x34, .dex, .axs 0x34, .cpyAbs 0xBEEF,
      .cmpAbs 0xBEEF, .decAbs 0xBEEF, .dcpAbs 0xBEEF] : List Instr).map some := by decide

theorem test_decode_row_D :
    [(16, 0x34D0), (16, 0x34D1), (8, 0xD2), (16, 0x34D3), (16, 0x34D4), (16, 0x34D5),
     (16, 0x34D6), (16, 0x34D7), (8, 0xD8), (24, 0xBEEFD9), (8, 0xDA), (24, 0xBEEFDB),
     (24, 0xBEEFDC), (24, 0xBEEFDD), (24, 0xBEEFDE), (24, 0xBEEFDF)].map (fun w => decodeTableWord w.1 w.2) =
    ([.bne 0x34, .cmpIzy 0x34, .kilD2, .dcpIzy 0x34, .nopZpxD4 0x34, .cmpZpx 0x34,
      .decZpx 0x34, .dcpZpx 0x34, .cld, .cmpAby 0xBEEF, .nopDA, .dcpAby 0xBEEF,
      .nopAbxDC 0xBEEF, .cmpAbx 0xBEEF, .decAbx 0xBEEF, .dcpAbx 0xBEEF] : List Instr).map some := by decide

theorem test_decode_row_E :
    [(16, 0x34E0), (16, 0x34E1), (16, 0x34E2), (16, 0x34E3), (16, 0x34E4), (16, 0x34E5),
     (16, 0x34E6), (16, 0x34E7), (8, 0xE8), (16, 0x34E9), (8, 0xEA), (16, 0x34EB),
     (24, 0xBEEFEC), (24, 0xBEEFED), (24, 0xBEEFEE), (24, 0xBEEFEF)].map (fun w => decodeTableWord w.1 w.2) =
    ([.cpxImm 0x34, .sbcIzx 0x34, .nopImmE2 0x34, .isbIzx 0x34, .cpxZp 0x34, .sbcZp 0x34,
      .incZp 0x34, .isbZp 0x34, .inx, .sbcImm 0x34, .nopEA, .sbcImmEB 0x34, .cpxAbs 0xBEEF,
      .sbcAbs 0xBEEF, .incAbs 0xBEEF, .isbAbs 0xBEEF] : List Instr).map some := by decide

theorem test_decode_row_F :
    [(16, 0x34F0), (16, 0x34F1), (8, 0xF2), (16, 0x34F3), (16, 0x34F4), (16, 0x34F5),
     (16, 0x34F6), (16, 0x34F7), (8, 0xF8), (24, 0xBEEFF9), (8, 0xFA), (24, 0xBEEFFB),
     (24, 0xBEEFFC), (24, 0xBEEFFD), (24, 0xBEEFFE), (24, 0xBEEFFF)].map (fun w => decodeTableWord w.1 w.2) =
    ([.beq 0x34, .sbcIzy 0x34, .kilF2, .isbIzy 0x34, .nopZpxF4 0x34, .sbcZpx 0x34,
      .incZpx 0x34, .isbZpx 0x34, .sed, .sbcAby 0xBEEF, .nopFA, .isbAby 0xBEEF,
      .nopAbxFC 0xBEEF, .sbcAbx 0xBEEF, .incAbx 0xBEEF, .isbAbx 0xBEEF] : List Instr).map some := by decide

/-! ### Vectors: one step each -/

/-- S0 of 95_test_vectors.md: after Reset(), PC set to 8000 by the caller. -/
def s0 : State := { State.reset with pc := 0x8000 }

/-- Bytes placed from an address on. -/
def place (addr : Nat) : List Byte → Memory → Memory
  | [], m => m
  | b :: bs, m => place ((addr + 1) % 65536) bs (Memory.write m addr b)

/-- A state with instruction bytes at its PC, and other cells set. -/
def loaded (s : State) (bytes : List Byte) (cells : List (Nat × Byte)) : State :=
  { s with mem := place s.pc.toNat bytes (cells.foldl (fun m c => Memory.write m c.1 c.2) []) }

/-- RAM from one address to another. -/
def ramFrom (first last : Word) : List Mount := [{ first, last, device := .ram 0xFFFF }]

/-- The state an outcome holds: the next one, or the one a BusFault or a refused opcode reports. -/
def held : Host.Outcome State Fault Refusal → Option State
  | .next s | .fault (.busFault _ s) | .refused (.unnamedUndocumented _ s) => some s
  | _ => none

/-- How a step ends. -/
inductive Ending
  | next
  | busFault (addr : Word)
  | refusedOpcode (op : Byte)
  | other
  deriving DecidableEq, Repr

def ending : Host.Outcome State Fault Refusal → Ending
  | .next _ => .next
  | .fault (.busFault a _) => .busFault a
  | .refused (.unnamedUndocumented op _) => .refusedOpcode op
  | _ => .other

/-- A, X, Y, SP, P, PC and `cyc` after a step. -/
def regs (o : Host.Outcome State Fault Refusal) : Option (List Nat) :=
  (held o).map fun t =>
    [t.a.toNat, t.x.toNat, t.y.toNat, t.sp.toNat, t.p.toNat, t.pc.toNat, t.cyc]

/-- The transactions of a step, in order. -/
def bus (o : Host.Outcome State Fault Refusal) : Option (List BusOp) :=
  (held o).map fun t => t.trace.reverse

def atV5 : State :=
  loaded { s0 with a := 0x50 } [0x6D, 0x00, 0x03]
    [(0x0300, 0x50)]

theorem test_v5_adc :
    regs (step atV5) = some [0xA0, 0x00, 0x00, 0xFD, 0xE4, 0x8003, 4] := by decide

def atV1 : State :=
  loaded { s0 with a := 0xFF } [0x69, 0x01]
    []

theorem test_v1_adc :
    regs (step atV1) = some [0x00, 0x00, 0x00, 0xFD, 0x27, 0x8002, 2] := by decide

def atV10 : State :=
  loaded { s0 with a := 0x80, p := 0x25 } [0xE5, 0x10]
    [(0x0010, 0x01)]

theorem test_v10_sbc :
    regs (step atV10) = some [0x7F, 0x00, 0x00, 0xFD, 0x65, 0x8002, 3] := by decide

def atV6 : State :=
  loaded { s0 with a := 0x80, p := 0x25 } [0xE9, 0x0F]
    []

theorem test_v6_sbc :
    regs (step atV6) = some [0x71, 0x00, 0x00, 0xFD, 0x65, 0x8002, 2] := by decide

def atV11 : State :=
  loaded { s0 with a := 0xF0 } [0x25, 0x10]
    [(0x0010, 0x8F)]

theorem test_v11_and :
    regs (step atV11) = some [0x80, 0x00, 0x00, 0xFD, 0xA4, 0x8002, 3] := by decide

def atV13 : State :=
  loaded { s0 with a := 0x0F, x := 0x20 } [0x1D, 0xF0, 0x12]
    [(0x1310, 0x80)]

theorem test_v13_ora :
    regs (step atV13) = some [0x8F, 0x20, 0x00, 0xFD, 0xA4, 0x8003, 5] := by decide

def atV15 : State :=
  loaded { s0 with a := 0xFF, y := 0x10 } [0x51, 0x86]
    [(0x0086, 0x28), (0x0087, 0x40), (0x4038, 0x0F)]

theorem test_v15_eor :
    regs (step atV15) = some [0xF0, 0x00, 0x10, 0xFD, 0xA4, 0x8002, 5] := by decide

def atV18 : State :=
  loaded { s0 with a := 0x01, p := 0xE4 } [0x2C, 0x00, 0x03]
    [(0x0300, 0x01)]

theorem test_v18_bit :
    regs (step atV18) = some [0x01, 0x00, 0x00, 0xFD, 0x24, 0x8003, 4] := by decide

def atV21 : State :=
  loaded s0 [0x06, 0x10]
    [(0x0010, 0x80)]

theorem test_v21_asl :
    regs (step atV21) = some [0x00, 0x00, 0x00, 0xFD, 0x27, 0x8002, 5] ∧
    bus (step atV21) = some [.rd 0x8000, .rd 0x8001, .rd 0x0010, .wr 0x0010 0x00] := by decide

def atV24 : State :=
  loaded { s0 with x := 0x05, p := 0xA4 } [0x5E, 0x00, 0x03]
    [(0x0305, 0x01)]

theorem test_v24_lsr :
    regs (step atV24) = some [0x00, 0x05, 0x00, 0xFD, 0x27, 0x8003, 7] ∧
    bus (step atV24) = some [.rd 0x8000, .rd 0x8001, .rd 0x8002, .rd 0x0305, .wr 0x0305 0x00] := by decide

def atV26 : State :=
  loaded { s0 with x := 0x02 } [0x36, 0xFF]
    [(0x0001, 0x80), (0x0101, 0x55)]

theorem test_v26_rol :
    regs (step atV26) = some [0x00, 0x02, 0x00, 0xFD, 0x27, 0x8002, 6] ∧
    bus (step atV26) = some [.rd 0x8000, .rd 0x8001, .rd 0x0001, .wr 0x0001 0x00] := by decide

def atV28 : State :=
  loaded s0 [0x6E, 0x00, 0x03]
    [(0x0300, 0x01)]

theorem test_v28_ror :
    regs (step atV28) = some [0x00, 0x00, 0x00, 0xFD, 0x27, 0x8003, 6] ∧
    bus (step atV28) = some [.rd 0x8000, .rd 0x8001, .rd 0x8002, .rd 0x0300, .wr 0x0300 0x00] := by decide

def atV32 : State :=
  loaded { s0 with a := 0x80, p := 0x64 } [0xC5, 0x10]
    [(0x0010, 0x00)]

theorem test_v32_cmp :
    regs (step atV32) = some [0x80, 0x00, 0x00, 0xFD, 0xE5, 0x8002, 3] := by decide

def atV34 : State :=
  loaded { s0 with x := 0xFF } [0xEC, 0x00, 0x03]
    [(0x0300, 0x00)]

theorem test_v34_cpx :
    regs (step atV34) = some [0x00, 0xFF, 0x00, 0xFD, 0xA5, 0x8003, 4] := by decide

def atV36 : State :=
  loaded { s0 with y := 0x00 } [0xC4, 0x10]
    [(0x0010, 0x00)]

theorem test_v36_cpy :
    regs (step atV36) = some [0x00, 0x00, 0x00, 0xFD, 0x27, 0x8002, 3] := by decide

def atV39 : State :=
  loaded { s0 with x := 0x20 } [0xFE, 0xF0, 0x12]
    [(0x1310, 0x09)]

theorem test_v39_inc :
    regs (step atV39) = some [0x00, 0x20, 0x00, 0xFD, 0x24, 0x8003, 8] ∧
    bus (step atV39) = some [.rd 0x8000, .rd 0x8001, .rd 0x8002, .rd 0x1310, .wr 0x1310 0x0A] := by decide

def atV41 : State :=
  loaded { s0 with x := 0x01 } [0xD6, 0x10]
    [(0x0011, 0x01)]

theorem test_v41_dec :
    regs (step atV41) = some [0x00, 0x01, 0x00, 0xFD, 0x26, 0x8002, 6] ∧
    bus (step atV41) = some [.rd 0x8000, .rd 0x8001, .rd 0x0011, .wr 0x0011 0x00] := by decide

def atV42 : State :=
  loaded { s0 with x := 0xFF } [0xE8]
    []

theorem test_v42_inx :
    regs (step atV42) = some [0x00, 0x00, 0x00, 0xFD, 0x26, 0x8001, 2] := by decide

def atV44 : State :=
  loaded { s0 with y := 0xFF } [0xC8]
    []

theorem test_v44_iny :
    regs (step atV44) = some [0x00, 0x00, 0x00, 0xFD, 0x26, 0x8001, 2] := by decide

def atV45 : State :=
  loaded { s0 with x := 0x00 } [0xCA]
    []

theorem test_v45_dex :
    regs (step atV45) = some [0x00, 0xFF, 0x00, 0xFD, 0xA4, 0x8001, 2] := by decide

def atV47 : State :=
  loaded { s0 with y := 0x80 } [0x88]
    []

theorem test_v47_dey :
    regs (step atV47) = some [0x00, 0x00, 0x7F, 0xFD, 0x24, 0x8001, 2] := by decide

def atV53 : State :=
  loaded { s0 with y := 0xE0 } [0xB1, 0x86]
    [(0x0086, 0x28), (0x0087, 0x40), (0x4108, 0x33)]

theorem test_v53_lda :
    regs (step atV53) = some [0x33, 0x00, 0xE0, 0xFD, 0x24, 0x8002, 6] := by decide

def atV60 : State :=
  loaded { s0 with y := 0x80 } [0xBE, 0x80, 0x02]
    [(0x0300, 0x7E)]

theorem test_v60_ldx :
    regs (step atV60) = some [0x00, 0x7E, 0x80, 0xFD, 0x24, 0x8003, 5] := by decide

def atV62 : State :=
  loaded { s0 with x := 0x10 } [0xBC, 0x00, 0x03]
    [(0x0310, 0x81)]

theorem test_v62_ldy :
    regs (step atV62) = some [0x00, 0x10, 0x81, 0xFD, 0xA4, 0x8003, 4] := by decide

def atV66 : State :=
  loaded { s0 with a := 0x42, y := 0x10 } [0x91, 0x86]
    [(0x0086, 0x28), (0x0087, 0x40)]

theorem test_v66_sta :
    regs (step atV66) = some [0x42, 0x00, 0x10, 0xFD, 0x24, 0x8002, 6] ∧
    bus (step atV66) = some [.rd 0x8000, .rd 0x8001, .rd 0x0086, .rd 0x0087, .wr 0x4038 0x42] := by decide

def atV69 : State :=
  loaded { s0 with x := 0x07, y := 0x20 } [0x96, 0xF0]
    []

theorem test_v69_stx :
    regs (step atV69) = some [0x00, 0x07, 0x20, 0xFD, 0x24, 0x8002, 4] ∧
    bus (step atV69) = some [.rd 0x8000, .rd 0x8001, .wr 0x0010 0x07] := by decide

def atV71 : State :=
  loaded { s0 with x := 0x05, y := 0x00, p := 0xA4 } [0x94, 0x10]
    []

theorem test_v71_sty :
    regs (step atV71) = some [0x00, 0x05, 0x00, 0xFD, 0xA4, 0x8002, 4] ∧
    bus (step atV71) = some [.rd 0x8000, .rd 0x8001, .wr 0x0015 0x00] := by decide

def atV72 : State :=
  loaded { s0 with a := 0x90 } [0xAA]
    []

theorem test_v72_tax :
    regs (step atV72) = some [0x90, 0x90, 0x00, 0xFD, 0xA4, 0x8001, 2] := by decide

def atV74 : State :=
  loaded { s0 with a := 0x01 } [0xA8]
    []

theorem test_v74_tay :
    regs (step atV74) = some [0x01, 0x00, 0x01, 0xFD, 0x24, 0x8001, 2] := by decide

def atV75 : State :=
  loaded { s0 with x := 0xFF } [0x8A]
    []

theorem test_v75_txa :
    regs (step atV75) = some [0xFF, 0xFF, 0x00, 0xFD, 0xA4, 0x8001, 2] := by decide

def atV76 : State :=
  loaded { s0 with a := 0x33, y := 0x00 } [0x98]
    []

theorem test_v76_tya :
    regs (step atV76) = some [0x00, 0x00, 0x00, 0xFD, 0x26, 0x8001, 2] := by decide

def atV77 : State :=
  loaded s0 [0xBA]
    []

theorem test_v77_tsx :
    regs (step atV77) = some [0x00, 0xFD, 0x00, 0xFD, 0xA4, 0x8001, 2] := by decide

def atV79 : State :=
  loaded { s0 with x := 0xFF } [0x9A]
    []

theorem test_v79_txs :
    regs (step atV79) = some [0x00, 0xFF, 0x00, 0xFF, 0x24, 0x8001, 2] := by decide

def atV81 : State :=
  loaded { s0 with p := 0x25 } [0x90, 0x10]
    []

theorem test_v81_bcc :
    regs (step atV81) = some [0x00, 0x00, 0x00, 0xFD, 0x25, 0x8002, 2] := by decide

def atV84 : State :=
  loaded { s0 with p := 0x25 } [0xB0, 0xFE]
    []

theorem test_v84_bcs :
    regs (step atV84) = some [0x00, 0x00, 0x00, 0xFD, 0x25, 0x8000, 3] := by decide

def atV85 : State :=
  loaded { s0 with p := 0x26 } [0xF0, 0x04]
    []

theorem test_v85_beq :
    regs (step atV85) = some [0x00, 0x00, 0x00, 0xFD, 0x26, 0x8006, 3] := by decide

def atV86 : State :=
  loaded { s0 with pc := 0x80FD, p := 0x26 } [0xF0, 0x01]
    []

theorem test_v86_beq :
    regs (step atV86) = some [0x00, 0x00, 0x00, 0xFD, 0x26, 0x8100, 4] := by decide

def atV87 : State :=
  loaded s0 [0x30, 0x02]
    []

theorem test_v87_bmi :
    regs (step atV87) = some [0x00, 0x00, 0x00, 0xFD, 0x24, 0x8002, 2] := by decide

def atV89 : State :=
  loaded { s0 with pc := 0x8009 } [0xD0, 0xFA]
    []

theorem test_v89_bne :
    regs (step atV89) = some [0x00, 0x00, 0x00, 0xFD, 0x24, 0x8005, 3] := by decide

def atV90 : State :=
  loaded { s0 with pc := 0x8009, p := 0x26 } [0xD0, 0xFA]
    []

theorem test_v90_bne :
    regs (step atV90) = some [0x00, 0x00, 0x00, 0xFD, 0x26, 0x800B, 2] := by decide

def atV91 : State :=
  loaded s0 [0x10, 0x7F]
    []

theorem test_v91_bpl :
    regs (step atV91) = some [0x00, 0x00, 0x00, 0xFD, 0x24, 0x8081, 3] := by decide

def atV93 : State :=
  loaded { s0 with p := 0x64 } [0x50, 0x02]
    []

theorem test_v93_bvc :
    regs (step atV93) = some [0x00, 0x00, 0x00, 0xFD, 0x64, 0x8002, 2] := by decide

def atV95 : State :=
  loaded { s0 with pc := 0x80F0, p := 0x64 } [0x70, 0x20]
    []

theorem test_v95_bvs :
    regs (step atV95) = some [0x00, 0x00, 0x00, 0xFD, 0x64, 0x8112, 4] := by decide

def atV98 : State :=
  loaded s0 [0x6C, 0xFF, 0x02]
    [(0x0200, 0x12), (0x02FF, 0x34), (0x0300, 0x56)]

theorem test_v98_jmp :
    regs (step atV98) = some [0x00, 0x00, 0x00, 0xFD, 0x24, 0x1234, 5] ∧
    bus (step atV98) = some [.rd 0x8000, .rd 0x8001, .rd 0x8002, .rd 0x02FF, .rd 0x0200] := by decide

def atV99 : State :=
  loaded s0 [0x6C, 0x80, 0x02]
    [(0x0280, 0x34), (0x0281, 0x12)]

theorem test_v99_jmp :
    regs (step atV99) = some [0x00, 0x00, 0x00, 0xFD, 0x24, 0x1234, 5] ∧
    bus (step atV99) = some [.rd 0x8000, .rd 0x8001, .rd 0x8002, .rd 0x0280, .rd 0x0281] := by decide

def atV101 : State :=
  loaded s0 [0x20, 0x10, 0x90]
    []

theorem test_v101_jsr :
    regs (step atV101) = some [0x00, 0x00, 0x00, 0xFB, 0x24, 0x9010, 6] ∧
    bus (step atV101) = some [.rd 0x8000, .rd 0x8001, .rd 0x8002, .wr 0x01FD 0x80,
      .wr 0x01FC 0x02] := by decide

def atV102 : State :=
  loaded { s0 with sp := 0x00 } [0x20, 0x10, 0x90]
    []

theorem test_v102_jsr :
    regs (step atV102) = some [0x00, 0x00, 0x00, 0xFE, 0x24, 0x9010, 6] ∧
    bus (step atV102) = some [.rd 0x8000, .rd 0x8001, .rd 0x8002, .wr 0x0100 0x80,
      .wr 0x01FF 0x02] := by decide

def atV104 : State :=
  loaded { s0 with pc := 0x9010, sp := 0xFB } [0x60]
    [(0x01FC, 0x02), (0x01FD, 0x80)]

theorem test_v104_rts :
    regs (step atV104) = some [0x00, 0x00, 0x00, 0xFD, 0x24, 0x8003, 6] := by decide

def atV106 : State :=
  loaded { s0 with a := 0x42 } [0x48]
    []

theorem test_v106_pha :
    regs (step atV106) = some [0x42, 0x00, 0x00, 0xFC, 0x24, 0x8001, 3] ∧
    bus (step atV106) = some [.rd 0x8000, .wr 0x01FD 0x42] := by decide

def atV108 : State :=
  loaded { s0 with sp := 0xFC } [0x68]
    [(0x01FD, 0x42)]

theorem test_v108_pla :
    regs (step atV108) = some [0x42, 0x00, 0x00, 0xFD, 0x24, 0x8001, 4] := by decide

def atV109 : State :=
  loaded { s0 with a := 0x11, sp := 0xFF } [0x68]
    [(0x0100, 0x00)]

theorem test_v109_pla :
    regs (step atV109) = some [0x00, 0x00, 0x00, 0x00, 0x26, 0x8001, 4] := by decide

def atV111 : State :=
  loaded s0 [0x08]
    []

theorem test_v111_php :
    regs (step atV111) = some [0x00, 0x00, 0x00, 0xFC, 0x24, 0x8001, 3] ∧
    bus (step atV111) = some [.rd 0x8000, .wr 0x01FD 0x34] := by decide

def atV113 : State :=
  loaded { s0 with sp := 0xFC } [0x28]
    [(0x01FD, 0x34)]

theorem test_v113_plp :
    regs (step atV113) = some [0x00, 0x00, 0x00, 0xFD, 0x24, 0x8001, 4] := by decide

def atV117 : State :=
  loaded { s0 with p := 0x25 } [0x18]
    []

theorem test_v117_clc :
    regs (step atV117) = some [0x00, 0x00, 0x00, 0xFD, 0x24, 0x8001, 2] := by decide

def atV118 : State :=
  loaded s0 [0x38]
    []

theorem test_v118_sec :
    regs (step atV118) = some [0x00, 0x00, 0x00, 0xFD, 0x25, 0x8001, 2] := by decide

def atV119 : State :=
  loaded s0 [0x58]
    []

theorem test_v119_cli :
    regs (step atV119) = some [0x00, 0x00, 0x00, 0xFD, 0x20, 0x8001, 2] := by decide

def atV120 : State :=
  loaded { s0 with p := 0x20 } [0x78]
    []

theorem test_v120_sei :
    regs (step atV120) = some [0x00, 0x00, 0x00, 0xFD, 0x24, 0x8001, 2] := by decide

def atV121 : State :=
  loaded { s0 with p := 0x64 } [0xB8]
    []

theorem test_v121_clv :
    regs (step atV121) = some [0x00, 0x00, 0x00, 0xFD, 0x24, 0x8001, 2] := by decide

def atV122 : State :=
  loaded { s0 with p := 0x2C } [0xD8]
    []

theorem test_v122_cld :
    regs (step atV122) = some [0x00, 0x00, 0x00, 0xFD, 0x24, 0x8001, 2] := by decide

def atV123 : State :=
  loaded s0 [0xF8]
    []

theorem test_v123_sed :
    regs (step atV123) = some [0x00, 0x00, 0x00, 0xFD, 0x2C, 0x8001, 2] := by decide

def atV149 : State :=
  loaded { s0 with x := 0x20 } [0x1C, 0xF0, 0x12]
    []

theorem test_v149_nop :
    regs (step atV149) = some [0x00, 0x20, 0x00, 0xFD, 0x24, 0x8003, 5] ∧
    bus (step atV149) = some [.rd 0x8000, .rd 0x8001, .rd 0x8002] := by decide

def atV150 : State :=
  loaded s0 [0x80, 0x55]
    []

theorem test_v150_nop :
    regs (step atV150) = some [0x00, 0x00, 0x00, 0xFD, 0x24, 0x8002, 2] ∧
    bus (step atV150) = some [.rd 0x8000] := by decide

def atV126 : State :=
  loaded s0 [0x00]
    [(0xFFFE, 0x00), (0xFFFF, 0x90)]

theorem test_v126_brk :
    regs (step atV126) = some [0x00, 0x00, 0x00, 0xFA, 0x24, 0x9000, 7] ∧
    bus (step atV126) = some [.rd 0x8000, .wr 0x01FD 0x80, .wr 0x01FC 0x02, .wr 0x01FB 0x34,
      .rd 0xFFFE, .rd 0xFFFF] := by decide

def atV127 : State :=
  loaded { s0 with pc := 0xFFFF, p := 0x20 } [0x00]
    [(0xFFFE, 0x00)]

theorem test_v127_brk :
    regs (step atV127) = some [0x00, 0x00, 0x00, 0xFA, 0x24, 0x0000, 7] ∧
    bus (step atV127) = some [.rd 0xFFFF, .wr 0x01FD 0x00, .wr 0x01FC 0x01, .wr 0x01FB 0x30,
      .rd 0xFFFE, .rd 0xFFFF] := by decide

def atV128 : State :=
  loaded { s0 with pc := 0x9000, sp := 0xFA, p := 0x24 } [0x40]
    [(0x01FB, 0x34), (0x01FC, 0x02), (0x01FD, 0x80)]

theorem test_v128_rti :
    regs (step atV128) = some [0x00, 0x00, 0x00, 0xFD, 0x24, 0x8002, 6] := by decide

def atV131 : State :=
  loaded { s0 with a := 0x55, x := 0x66, y := 0xE0 } [0xB3, 0x86]
    [(0x0086, 0x28), (0x0087, 0x40), (0x4108, 0x00)]

theorem test_v131_lax :
    regs (step atV131) = some [0x00, 0x00, 0xE0, 0xFD, 0x26, 0x8002, 6] ∧
    bus (step atV131) = some [.rd 0x8000, .rd 0x8001, .rd 0x0086, .rd 0x0087, .rd 0x4108,
      .rd 0x4108] := by decide

def atV134 : State :=
  loaded { s0 with a := 0xFF, x := 0x04, p := 0xA4 } [0x83, 0x20]
    [(0x0024, 0x74), (0x0025, 0x20)]

theorem test_v134_sax :
    regs (step atV134) = some [0xFF, 0x04, 0x00, 0xFD, 0xA4, 0x8002, 6] ∧
    bus (step atV134) = some [.rd 0x8000, .rd 0x8001, .rd 0x0024, .rd 0x0025, .wr 0x2074 0x04] := by decide

def atV137 : State :=
  loaded { s0 with a := 0x01, y := 0x20 } [0x1B, 0xF0, 0x12]
    [(0x1310, 0x41)]

theorem test_v137_slo :
    regs (step atV137) = some [0x83, 0x00, 0x20, 0xFD, 0xA4, 0x8003, 8] ∧
    bus (step atV137) = some [.rd 0x8000, .rd 0x8001, .rd 0x8002, .rd 0x1310, .wr 0x1310 0x82,
      .rd 0x1310] := by decide

def atV138 : State :=
  loaded { s0 with a := 0xFF, p := 0x25 } [0x27, 0x10]
    [(0x0010, 0x80)]

theorem test_v138_rla :
    regs (step atV138) = some [0x01, 0x00, 0x00, 0xFD, 0x25, 0x8002, 5] ∧
    bus (step atV138) = some [.rd 0x8000, .rd 0x8001, .rd 0x0010, .wr 0x0010 0x01, .rd 0x0010] := by decide

def atV139 : State :=
  loaded { s0 with a := 0xFF } [0x47, 0x10]
    [(0x0010, 0x03)]

theorem test_v139_sre :
    regs (step atV139) = some [0xFE, 0x00, 0x00, 0xFD, 0xA5, 0x8002, 5] ∧
    bus (step atV139) = some [.rd 0x8000, .rd 0x8001, .rd 0x0010, .wr 0x0010 0x01, .rd 0x0010] := by decide

def atV141 : State :=
  loaded { s0 with a := 0x10 } [0x67, 0x10]
    [(0x0010, 0x03)]

theorem test_v141_rra :
    regs (step atV141) = some [0x12, 0x00, 0x00, 0xFD, 0x24, 0x8002, 5] ∧
    bus (step atV141) = some [.rd 0x8000, .rd 0x8001, .rd 0x0010, .wr 0x0010 0x01, .rd 0x0010] := by decide

def atV143 : State :=
  loaded { s0 with a := 0x10 } [0xC7, 0x10]
    [(0x0010, 0x11)]

theorem test_v143_dcp :
    regs (step atV143) = some [0x10, 0x00, 0x00, 0xFD, 0x27, 0x8002, 5] ∧
    bus (step atV143) = some [.rd 0x8000, .rd 0x8001, .rd 0x0010, .wr 0x0010 0x10, .rd 0x0010] := by decide

def atV147 : State :=
  loaded { s0 with a := 0x20, y := 0xE0, p := 0x25 } [0xF3, 0x86]
    [(0x0086, 0x28), (0x0087, 0x40), (0x4108, 0x0F)]

theorem test_v147_isb :
    regs (step atV147) = some [0x10, 0x00, 0xE0, 0xFD, 0x25, 0x8002, 9] ∧
    bus (step atV147) = some [.rd 0x8000, .rd 0x8001, .rd 0x0086, .rd 0x0087, .rd 0x4108,
      .wr 0x4108 0x10, .rd 0x4108] := by decide

def atV154 : State :=
  loaded { s0 with a := 0xF0 } [0x0B, 0x80]
    []

theorem test_v154_aac :
    regs (step atV154) = some [0x80, 0x00, 0x00, 0xFD, 0xA5, 0x8002, 2] := by decide

def atN1 : State :=
  loaded { s0 with
      turns := [⟨0, [], []⟩, ⟨0, [], []⟩, ⟨0, [], []⟩, ⟨0, [.interrupt], []⟩] } [0xE6, 0x10, 0xEA]
    [(0xFFFA, 0x00), (0xFFFB, 0x90)]

theorem test_n1_inc :
    regs (step atN1) = some [0x00, 0x00, 0x00, 0xFA, 0x24, 0x9000, 12] ∧
    bus (step atN1) = some [.rd 0x8000, .rd 0x8001, .rd 0x0010, .wr 0x0010 0x01, .rd 0x8002,
      .rd 0x8002, .wr 0x01FD 0x80, .wr 0x01FC 0x02, .wr 0x01FB 0x24, .rd 0xFFFA, .rd 0xFFFB] ∧
    (held (step atN1)).map (·.nmi.pending) = some false := by decide

def atN1b : State :=
  loaded { s0 with
      turns := [⟨0, [], []⟩, ⟨0, [], []⟩, ⟨0, [], []⟩, ⟨0, [.interrupt], []⟩],
      defers := [true],
      params := { Params.default with nmiLatency := .firstOrSecondCheck } } [0xE6, 0x10, 0xEA]
    [(0xFFFA, 0x00), (0xFFFB, 0x90)]

theorem test_n1b_inc :
    regs (step atN1b) = some [0x00, 0x00, 0x00, 0xFD, 0x24, 0x8002, 5] ∧
    bus (step atN1b) = some [.rd 0x8000, .rd 0x8001, .rd 0x0010, .wr 0x0010 0x01] ∧
    (held (step atN1b)).map (·.nmi.pending) = some true := by decide

def atN3 : State :=
  loaded { s0 with
      turns := [⟨0, [.interrupt], []⟩, ⟨0, [], []⟩, ⟨0, [.cancel], []⟩] } [0xE6, 0x10, 0xEA]
    [(0xFFFA, 0x00), (0xFFFB, 0x90)]

theorem test_n3_inc :
    regs (step atN3) = some [0x00, 0x00, 0x00, 0xFD, 0x24, 0x8002, 5] ∧
    bus (step atN3) = some [.rd 0x8000, .rd 0x8001, .rd 0x0010, .wr 0x0010 0x01] ∧
    (held (step atN3)).map (·.nmi.pending) = some false := by decide

def atN4 : State :=
  loaded { s0 with calls := [[.event .interrupt]] } [0xEA]
    [(0xFFFA, 0x00), (0xFFFB, 0x90)]

theorem test_n4_nop :
    regs (step atN4) = some [0x00, 0x00, 0x00, 0xFA, 0x24, 0x9000, 9] ∧
    bus (step atN4) = some [.rd 0x8000, .rd 0x8001, .rd 0x8001, .wr 0x01FD 0x80,
      .wr 0x01FC 0x01, .wr 0x01FB 0x24, .rd 0xFFFA, .rd 0xFFFB] ∧
    (held (step atN4)).map (·.nmi.pending) = some false := by decide

def atN5 : State :=
  loaded { s0 with
      turns := [⟨0, [], []⟩, ⟨0, [], []⟩, ⟨0, [], []⟩, ⟨0, [], []⟩, ⟨0, [.interrupt], []⟩],
      calls := [[.event .interrupt]] } [0xEA]
    [(0xFFFA, 0x00), (0xFFFB, 0x90)]

theorem test_n5_nop :
    regs (step atN5) = some [0x00, 0x00, 0x00, 0xFA, 0x24, 0x9000, 9] ∧
    bus (step atN5) = some [.rd 0x8000, .rd 0x8001, .rd 0x8001, .wr 0x01FD 0x80,
      .wr 0x01FC 0x01, .wr 0x01FB 0x24, .rd 0xFFFA, .rd 0xFFFB] ∧
    (held (step atN5)).map (·.nmi.pending) = some false := by decide

def atN6 : State :=
  loaded { s0 with
      turns := [⟨0, [.interrupt], []⟩] } [0x00]
    [(0xFFFA, 0x00), (0xFFFB, 0x90), (0xFFFE, 0x00), (0xFFFF, 0xA0)]

theorem test_n6_brk :
    regs (step atN6) = some [0x00, 0x00, 0x00, 0xF7, 0x24, 0x9000, 14] ∧
    bus (step atN6) = some [.rd 0x8000, .wr 0x01FD 0x80, .wr 0x01FC 0x02, .wr 0x01FB 0x34,
      .rd 0xFFFE, .rd 0xFFFF, .rd 0xA000, .rd 0xA000, .wr 0x01FA 0xA0, .wr 0x01F9 0x00,
      .wr 0x01F8 0x24, .rd 0xFFFA, .rd 0xFFFB] ∧
    (held (step atN6)).map (·.nmi.pending) = some false := by decide

def atN8 : State :=
  loaded { s0 with
      x := 0x20,
      turns := [⟨0, [], []⟩, ⟨0, [], []⟩, ⟨0, [], []⟩, ⟨0, [.interrupt], []⟩] } [0xBD, 0xF0, 0x12]
    [(0xFFFA, 0x00), (0xFFFB, 0x90)]

theorem test_n8_lda :
    regs (step atN8) = some [0x00, 0x20, 0x00, 0xFA, 0x26, 0x9000, 12] ∧
    bus (step atN8) = some [.rd 0x8000, .rd 0x8001, .rd 0x8002, .rd 0x1310, .rd 0x8003,
      .rd 0x8003, .wr 0x01FD 0x80, .wr 0x01FC 0x03, .wr 0x01FB 0x26, .rd 0xFFFA, .rd 0xFFFB] ∧
    (held (step atN8)).map (·.nmi.pending) = some false := by decide

def atF1 : State :=
  loaded { s0 with
      pc := 0x4000,
      mounts := ramFrom 0x0000 0x07FF ++ ramFrom 0x8000 0xFFFF } [0xEA]
    []

theorem test_f1_nop :
    regs (step atF1) = some [0x00, 0x00, 0x00, 0xFD, 0x24, 0x4000, 0] ∧
    bus (step atF1) = some [] ∧
    ending (step atF1) = .busFault 0x4000 := by decide

def atF3 : State :=
  loaded { s0 with
      a := 0x42, x := 0x20,
      mounts := ramFrom 0x0000 0x07FF ++ ramFrom 0x8000 0xFFFF } [0x9D, 0xF0, 0x4F]
    []

theorem test_f3_sta :
    regs (step atF3) = some [0x42, 0x20, 0x00, 0xFD, 0x24, 0x8003, 1] ∧
    ending (step atF3) = .busFault 0x5010 := by decide

def atF4 : State :=
  loaded { s0 with
      a := 0x42, p := 0xA4,
      mounts := ramFrom 0x0000 0x07FF ++ ramFrom 0x8000 0xFFFF } [0xAD, 0x00, 0x50]
    []

theorem test_f4_lda :
    regs (step atF4) = some [0x42, 0x00, 0x00, 0xFD, 0xA4, 0x8003, 0] ∧
    ending (step atF4) = .busFault 0x5000 := by decide

def atF5 : State :=
  loaded { s0 with
      mounts := ramFrom 0x8000 0xFFFF } [0x20, 0x10, 0x90]
    []

theorem test_f5_jsr :
    regs (step atF5) = some [0x00, 0x00, 0x00, 0xFD, 0x24, 0x8003, 0] ∧
    ending (step atF5) = .busFault 0x01FD := by decide

def atF8 : State :=
  loaded { s0 with
      p := 0x20,
      mounts := ramFrom 0x8000 0xFFF9 ++ ramFrom 0x0000 0x07FF,
      calls := [[.event .interrupt]] } [0xEA]
    []

theorem test_f8_nop :
    regs (step atF8) = some [0x00, 0x00, 0x00, 0xFA, 0x24, 0x8001, 2] ∧
    bus (step atF8) = some [.rd 0x8000, .rd 0x8001, .rd 0x8001, .wr 0x01FD 0x80,
      .wr 0x01FC 0x01, .wr 0x01FB 0x20] ∧
    ending (step atF8) = .busFault 0xFFFA := by decide

def atF9 : State :=
  loaded { s0 with
      sp := 0x00,
      mounts := ramFrom 0x0000 0x01FE ++ ramFrom 0x8000 0xFFFF } [0x20, 0x10, 0x90]
    []

theorem test_f9_jsr :
    regs (step atF9) = some [0x00, 0x00, 0x00, 0xFF, 0x24, 0x8003, 0] ∧
    bus (step atF9) = some [.rd 0x8000, .rd 0x8001, .rd 0x8002, .wr 0x0100 0x80] ∧
    ending (step atF9) = .busFault 0x01FF := by decide

def atF10 : State :=
  loaded { s0 with
      pc := 0x87FF,
      mounts := ramFrom 0x8000 0x87FF ++ ramFrom 0x0000 0x07FF } [0xD0, 0x10]
    []

theorem test_f10_bne :
    regs (step atF10) = some [0x00, 0x00, 0x00, 0xFD, 0x24, 0x8800, 0] ∧
    ending (step atF10) = .busFault 0x8800 := by decide

def atX1 : State :=
  loaded { s0 with a := 0x03 } [0x4B, 0x01]
    []

theorem test_x1_asr :
    regs (step atX1) = some [0x03, 0x00, 0x00, 0xFD, 0x24, 0x8001, 0] ∧
    ending (step atX1) = .refusedOpcode 0x4B := by decide

def atX2 : State :=
  loaded s0 [0x02]
    []

theorem test_x2_kil :
    regs (step atX2) = some [0x00, 0x00, 0x00, 0xFD, 0x24, 0x8001, 0] ∧
    ending (step atX2) = .refusedOpcode 0x02 := by decide

/-! ### The unnamed opcodes admitted: the examples of R251 to R254 -/

/-- `s0` where ADMIT_UNNAMED_UNDOC is true. -/
def admitting : State := { s0 with params := { Params.default with admitUnnamedUndoc := true } }

theorem test_r251_asr :
    (held (step (loaded { admitting with a := 0xFF } [0x4B, 0x03] []))).map
      (fun t => (t.a, t.p)) = some (0x01, 0x25) := by decide

theorem test_r252_arr :
    (held (step (loaded { admitting with a := 0xFF, p := 0x25 } [0x6B, 0xFF] []))).map
      (fun t => (t.a, t.p)) = some (0xFF, 0xA5) := by decide

theorem test_r253_axs :
    (held (step (loaded { admitting with a := 0xFF, x := 0x10 } [0xCB, 0x01] []))).map
      (fun t => (t.x, t.p)) = some (0x0F, 0x25) := by decide

theorem test_r254_lar :
    (held (step (loaded admitting [0xBB, 0x00, 0x03] [(0x0300, 0xF0)]))).map
      (fun t => (t.a, t.x, t.sp, t.p)) = some (0xF0, 0xF0, 0xF0, 0xA4) := by decide

/-! ### Reset and boot: RS1, RS2, RS4, RS5 -/

/-- The state before RS1. -/
def beforeReset : State :=
  { State.reset with a := 0x12, x := 0x34, y := 0x56, sp := 0x78, p := 0xC3, pc := 0x1234, cyc := 999 }

theorem test_rs1_reset : resetCore beforeReset =
    { beforeReset with a := 0, x := 0, y := 0, sp := 0xFD, p := 0x24, cyc := 0 } := by decide

theorem test_rs2_boot :
    (held (boot { beforeReset with mem := [(0xFFFD, 0x80)] })).map
      (fun t => (t.pc, t.cyc, t.sp, t.p, t.trace)) =
    some (0x8000, 0, 0xFD, 0x24, [.rd 0xFFFD, .rd 0xFFFC]) := by decide

/-- A machine just powered on: the registers hold anything, here 5A. -/
def poweredOn (mem : Memory) (mounts : List Mount) : State :=
  State.powerOn 0x5A 0x5A 0x5A 0x5A 0x5A 0x5A5A 77 33 Params.default mem mounts

/-- RS4: a request during the first vector read is serviced at the end of the first step. -/
theorem test_rs4_boot_with_request :
    regs (step { poweredOn [(0x8000, 0xEA), (0xFFFB, 0x90), (0xFFFD, 0x80)] [wholeRam] with
      calls := [[.boot]]
      turns := [⟨0, [.interrupt], []⟩] }) =
    some [0x00, 0x00, 0x00, 0xFA, 0x24, 0x9000, 9] := by decide

theorem test_rs5_boot_unmapped :
    ending (boot (poweredOn [] [{ first := 0x0000, last := 0x07FF, device := .ram 0xFFFF }])) =
      .busFault 0xFFFC := by decide

/-- R302: `Step()` before Boot is refused. -/
theorem test_step_before_boot : step (poweredOn [] [wholeRam]) = .refused .notBooted := rfl

/-- withFetchWord: `LDA #$01` as the first instruction after reset. -/
theorem test_with_fetch_word :
    regs (step (State.reset.withFetchWord 16 0x01A9)) =
      some [0x01, 0x00, 0x00, 0xFD, 0x24, 0x0002, 2] := by decide

/-! ### Another chip's change of RAM is seen by the next read of the cell (R61) -/

/-- The operand byte of `LDA $10` is changed to 20 in the callback of the opcode's fetch, and the
cell 0020 in the callback of the operand's. -/
theorem test_r61_change_in_a_transaction :
    regs (step (loaded { s0 with turns := [⟨0, [], [⟨0x8001, 0x20⟩]⟩, ⟨0, [], [⟨0x0020, 0x99⟩]⟩] }
      [0xA5, 0x10] [(0x0010, 0x55)])) =
      some [0x99, 0x00, 0x00, 0xFD, 0xA4, 0x8002, 3] := by decide

/-- Between two steps a chip puts `LDA #$01` where nothing was. -/
theorem test_r61_change_between_steps :
    regs (step { s0 with calls := [[.change ⟨0x8000, 0xA9⟩, .change ⟨0x8001, 0x01⟩]] }) =
      some [0x01, 0x00, 0x00, 0xFD, 0x24, 0x8002, 2] := by decide

/-! ### Witnesses: states and operands that meet the hypotheses of the statements -/

/-- In whole RAM every address names its own cell. -/
theorem cellOf_wholeRam (s : State) (h : s.mounts = [wholeRam]) (addr : Word) :
    cellOf s addr = some addr.toNat := by
  have hmax : (0xFFFF : Word).toNat = 65535 := rfl
  have hcovers : mountCovers wholeRam addr = true := by
    simp only [mountCovers, wholeRam, Bool.and_eq_true, decide_eq_true_eq, BitVec.le_def, hmax]
    exact ⟨Nat.zero_le _, by omega⟩
  have hcell : mountCell wholeRam 0xFFFF addr = addr.toNat := by
    have hmask := Nat.and_two_pow_sub_one_eq_mod addr.toNat 16
    simp [mountCell, wholeRam] at hmask ⊢
    omega
  have hmount : mountAt s addr = some wholeRam := by
    simp [mountAt, findMount, h, hcovers]
  simp only [cellOf, hmount]
  exact congrArg some hcell

theorem mapped_wholeRam (s : State) (h : s.mounts = [wholeRam]) (addr : Word) : Mapped s addr := by
  have hc := cellOf_wholeRam s h addr
  unfold Mapped
  unfold cellOf at hc
  split at hc
  · simp [*]
  · exact absurd hc (by simp)

theorem stackInRam_wholeRam (s : State) (h : s.mounts = [wholeRam]) (hb : s.params.stackBase = 1) :
    StackInRam s := by
  refine ⟨fun sp => by simp [cellOf_wholeRam s h], fun sp sp' he => ?_⟩
  simp only [cellOf_wholeRam s h, Option.some.injEq, stackAddr, hb] at he
  simpa using congrArg lowByte (BitVec.eq_of_toNat_eq he)

/-- With no turn coming no other chip changes anything. -/
theorem chipsLeave_of_no_turns (s : State) (h : s.turns = []) (addr : Word) :
    ChipsLeave s addr := by
  simp [ChipsLeave, h]

theorem witness_DecodeOfEncode : (Instr.adcAbx 0xFFFF).wellFormed = true := rfl

theorem witness_EncodeOfDecode : decode [0x69, 0xFF, 0x00] = .ok (.adcImm 0xFF, [0x00]) := rfl

theorem witness_StepRunsDecodedInstruction :
    let s := loaded { s0 with pc := 0xFFFE } [0x6D, 0x00, 0x03] []
    s.status = .running ∧ boundary s = .next s ∧ s.booted = true ∧
      decode [0x6D, 0x00, 0x03] = .ok (.adcAbs 0x0300, []) ∧
      refusedOpcode s.params 0x6D = false ∧
      (∃ s1, transact ((fetchReads (.adcAbs 0x0300) s.pc).map .rd) s =
        .next ([0x6D, 0x00, 0x03], s1)) ∧
      CodeAt s s.pc [0x6D, 0x00, 0x03] ∧ ∀ addr, ChipsLeave s addr :=
  ⟨rfl, rfl, rfl, rfl, by decide, ⟨_, rfl⟩, ⟨by decide, by decide, by decide, trivial⟩,
    chipsLeave_of_no_turns _ rfl⟩

theorem witness_RefusedOpcodeStopsBeforeOperands :
    let s := loaded s0 [0x4B, 0x01] []
    s.status = .running ∧ boundary s = .next s ∧ s.booted = true ∧
      (∃ s1, memRead s.pc s = .next (0x4B, s1)) ∧ refusedOpcode s.params 0x4B = true :=
  ⟨rfl, rfl, rfl, ⟨_, rfl⟩, by decide⟩

theorem witness_UnnamedInstructionsRefused :
    (Instr.xas 0xFFFF).mnemonic ∈ [Mnemonic.axa, .sxa, .sya, .xas, .kil] ∧
    (Instr.xaa 0xFF).mnemonic ∈ [Mnemonic.asr, .arr, .axs, .lar, .atx, .xaa] ∧
    s0.params.admitUnnamedUndoc = false := by decide

theorem witness_EveryExecutedInstructionCompletes :
    FullyMapped State.reset ∧ refusedOpcode State.reset.params 0x00 = false :=
  ⟨mapped_wholeRam _ rfl, by decide⟩

theorem witness_MachinesWithoutAStep :
    ({ s0 with status := .faulted } : State).status = .faulted ∧
    (poweredOn [] []).status = .running ∧ boundary (poweredOn [] []) = .next (poweredOn [] []) ∧
    (poweredOn [] []).booted = false := ⟨rfl, rfl, rfl, rfl⟩

theorem witness_StepKeepsInvariant :
    ∃ t, s0.Inv ∧ step s0 = .next t :=
  ⟨_, ⟨by decide, by decide, by decide, by decide, rfl, rfl⟩, rfl⟩

/-- The host resets the machine before the step: cyc falls to 0 and then rises to the BRK's 7. -/
theorem witness_StepIsMonotone :
    let s := { s0 with cyc := 99, calls := [[.reset], []] }
    ∃ s' t, boundary s = .next s' ∧ step s = .next t ∧ s'.cyc = 0 ∧ t.cyc = 7 :=
  ⟨_, _, rfl, rfl, rfl, rfl⟩

/-- A request arrives with the opcode fetch of a NOP. -/
theorem witness_LatchIdleAfterEveryStep :
    let s := loaded { s0 with turns := [⟨0, [.interrupt], []⟩] } [0xEA] []
    ∃ t, boundary s = .next s ∧ s.params.nmiLatency = .formula ∧ BaseCostsAtLeastTwo s.params ∧
      StampNotAhead s ∧ step s = .next t := by
  refine ⟨_, rfl, rfl, ?_, fun h => ?_, rfl⟩
  · show BaseCostsAtLeastTwo Params.default
    unfold BaseCostsAtLeastTwo
    decide
  · exact absurd h (by decide)

theorem witness_frames : ∃ t, exec (.incZp 0x10) s0 = .next t := ⟨_, rfl⟩

theorem witness_DecimalAndInterruptFlagsAreInert :
    movesStatus (Instr.adcImm 0x01).mnemonic = false ∧
    writtenFlag (Instr.adcImm 0x01).mnemonic ≠ some (.d, false) ∧
    writtenFlag (Instr.adcImm 0x01).mnemonic ≠ some (.d, true) := by decide

/-- RAM from 0000 to 07FF, mirrored to 1FFF, and from 8000 on; nothing elsewhere. -/
def partlyMapped : State :=
  { s0 with mounts := [{ first := 0x0000, last := 0x1FFF, device := .ram 0x07FF },
      { first := 0x8000, last := 0xFFFF, device := .ram 0xFFFF }] }

theorem witness_UnmappedAccessesFault :
    mountAt partlyMapped 0x2000 = none ∧ mountAt partlyMapped 0x7FFF = none ∧
    ∃ r, exec (.staAbs 0x2000) partlyMapped = .fault r := ⟨by decide, by decide, _, rfl⟩

/-- A mirrored cell written by the core; and one that a chip changes in the callback of a read of its
other address, twice, a change of another cell coming last. -/
theorem witness_RamReadsLastWrite :
    (∃ t, partlyMapped.mem.wf = true ∧ memWrite 0x1FFF 0x00 partlyMapped = .next t ∧
      (cellOf partlyMapped 0x1FFF).isSome = true ∧
      cellOf partlyMapped 0x07FF = cellOf partlyMapped 0x1FFF ∧
      ChipsLeave partlyMapped 0x07FF) ∧
    (let c : CellChange := ⟨0x1FFF, 0x22⟩
     let turn : BusTurn := ⟨0, [], [⟨0x07FF, 0x11⟩] ++ c :: [⟨0x0000, 0x33⟩]⟩
     let s := { partlyMapped with turns := [turn] }
     (∃ v t, memRead 0x07FF s = .next (v, t)) ∧ (∃ t, memWrite 0x8000 0x01 s = .next t) ∧
       s.turns = turn :: [] ∧ (∀ c' ∈ [(⟨0x0000, 0x33⟩ : CellChange)],
         cellOf s c'.addr ≠ cellOf s c.addr) ∧
       (cellOf s c.addr).isSome = true ∧ cellOf s 0x07FF = cellOf s c.addr) :=
  ⟨⟨_, by decide, rfl, by decide, by decide, chipsLeave_of_no_turns _ rfl _⟩,
    ⟨_, _, rfl⟩, ⟨_, rfl⟩, rfl, by decide, by decide, by decide⟩

theorem witness_TransactionDeliversEvents :
    (∀ es : List Event, (∃ v t, memRead 0xFFFF { s0 with turns := [⟨0, es, []⟩] } = .next (v, t)) ∧
      ∃ t, memWrite 0x0000 0xFF { s0 with turns := [⟨0, es, []⟩] } = .next t) ∧
    (∃ v t, memRead 0x0000 { s0 with nmi := ⟨true, 0, false⟩, turns := [⟨0, [.interrupt], []⟩] } =
      .next (v, t)) ∧
    (∃ v t, memRead 0xFFFF s0 = .next (v, t)) ∧ s0.turns = [] ∧
    s0.nmi.pending = false ∧ s0.params.nmiReraise = .keep ∧
    ({ Params.default with nmiReraise := .overwrite } : Params).nmiReraise = .overwrite :=
  ⟨fun _ => ⟨⟨_, _, rfl⟩, _, rfl⟩, ⟨_, _, rfl⟩, ⟨_, _, rfl⟩, rfl, rfl, rfl, rfl⟩

/-- A mount just above RAM is disjoint from it; one that begins at RAM's last address is not. -/
theorem witness_HostCallsAtTheBoundary :
    let ram : Mount := { first := 0x0000, last := 0x1FFF, device := .ram 0x07FF }
    let above : Mount := { first := 0x2000, last := 0x2000, device := .external }
    let touching : Mount := { first := 0x1FFF, last := 0x3FFF, device := .external }
    (∀ addr, ¬(mountCovers above addr = true ∧ mountCovers ram addr = true)) ∧
    (mountCovers touching 0x1FFF = true ∧ mountCovers ram 0x1FFF = true) ∧
    ram.first ≤ ram.last ∧ above.first ≤ above.last ∧ touching.first ≤ touching.last := by
  refine ⟨fun addr => ?_, by decide, by decide, by decide, by decide⟩
  have h1 : (0x2000 : Word).toNat = 8192 := rfl
  have h2 : (0x1FFF : Word).toNat = 8191 := rfl
  simp only [mountCovers, Bool.and_eq_true, decide_eq_true_eq, BitVec.le_def, h1, h2]
  omega

/-- The other calls of HostCallsAtTheBoundary: a change in RAM and one outside it, a Boot() that
completes and one that faults. -/
theorem witness_HostCallsAtTheBoundary_changes_and_boots :
    let c : CellChange := ⟨0x1FFF, 0x01⟩
    let inRam := { partlyMapped with calls := [[.change c, .reset]] }
    let outside := { partlyMapped with calls := [[.change ⟨0x2000, 0x01⟩]] }
    inRam.mem.wf = true ∧ cellOf inRam c.addr = some 0x07FF ∧ cellOf outside 0x2000 = none ∧
    (∃ u, boot s0 = .next u) ∧ (poweredOn [] []).status = .running ∧
    ∃ r, boot (poweredOn [] []) = .fault r :=
  ⟨by decide, by decide, by decide, ⟨_, rfl⟩, rfl, _, rfl⟩

/-- R111: the pointer 02FF takes its high byte from 0200; both mapped, the first unmapped, the second
unmapped. -/
theorem witness_IndirectModeWrapsInPage :
    (0x0200 : Word).toNat = (0x02FF : Word).toNat / 256 * 256 + ((0x02FF : Word).toNat + 1) % 256 ∧
    Mapped s0 0x02FF ∧ Mapped s0 0x0200 ∧ ChipsLeave s0 0x0200 ∧
    mountAt { s0 with mounts := ramFrom 0x0000 0x02FE } 0x02FF = none ∧
    (let s := { s0 with mounts := ramFrom 0x02FF 0xFFFF }
     (∃ lo s1, memRead 0x02FF s = .next (lo, s1)) ∧ mountAt s 0x0200 = none) :=
  ⟨by decide, mapped_wholeRam _ rfl _, mapped_wholeRam _ rfl _, chipsLeave_of_no_turns _ rfl _,
    by decide, ⟨_, _, rfl⟩, by decide⟩

/-- R112, R113: pointers whose high byte wraps to 0000, for z + X = FF and for z = FF; both bytes
mapped, the first unmapped, the second unmapped. -/
theorem witness_ZeroPagePointerModesResolve :
    Mapped s0 0x00FF ∧ Mapped s0 0x0000 ∧ ChipsLeave s0 0x0000 ∧
    (let s := { s0 with x := 0xFF }
     (0x00FF : Word).toNat = ((0x00 : Byte).toNat + s.x.toNat) % 256 ∧
     (0x0000 : Word).toNat = ((0x00 : Byte).toNat + s.x.toNat + 1) % 256) ∧
    (0x00FF : Word).toNat = (0xFF : Byte).toNat ∧
    (0x0000 : Word).toNat = ((0xFF : Byte).toNat + 1) % 256 ∧
    mountAt { s0 with mounts := ramFrom 0x0000 0x00FE } 0x00FF = none ∧
    (let s := { s0 with mounts := ramFrom 0x00FF 0xFFFF }
     (∃ lo s1, memRead 0x00FF s = .next (lo, s1)) ∧ mountAt s 0x0000 = none) :=
  ⟨mapped_wholeRam _ rfl _, mapped_wholeRam _ rfl _, chipsLeave_of_no_turns _ rfl _, by decide,
    by decide, by decide, by decide, ⟨_, _, rfl⟩, by decide⟩

theorem witness_OperandReadIsOneTransaction :
    ∃ ea s1, resolve (.abx 0xFFFF) { s0 with x := 0xFF } = .next (ea, s1) ∧ Mapped s1 ea ∧
      ChipsLeave { s0 with x := 0xFF } ea :=
  ⟨_, _, rfl, mapped_wholeRam _ rfl _, chipsLeave_of_no_turns _ rfl _⟩

theorem witness_StackIsLastInFirstOut :
    s0.mem.wf = true ∧ StackInRam s0 ∧ (∀ sp, ChipsLeave s0 (stackAddr s0 sp)) ∧
    (List.replicate 256 (0xFF : Byte)).length ≤ 256 :=
  ⟨by decide, stackInRam_wholeRam _ rfl rfl, fun _ => chipsLeave_of_no_turns _ rfl _,
    Nat.le_of_eq List.length_replicate⟩

theorem witness_AdcAddsWithCarry :
    ∃ m s1, (Instr.adcIzy 0xFF).mnemonic = .adc ∧
      operandSource (Instr.adcIzy 0xFF).operand = some (.mem (.izy 0xFF)) ∧
      readSource (.mem (.izy 0xFF)) s0 = .next (m, s1) := ⟨_, _, rfl, rfl, rfl⟩

/-- R241: the alias byte EB is an SBC. -/
theorem witness_SbcSubtractsWithBorrow :
    ∃ m s1, (Instr.sbcImmEB 0x0F).opcode = 0xEB ∧ (Instr.sbcImmEB 0x0F).mnemonic = .sbc ∧
      operandSource (Instr.sbcImmEB 0x0F).operand = some (.imm 0x0F) ∧
      readSource (.imm 0x0F) s0 = .next (m, s1) := ⟨_, _, rfl, rfl, rfl, rfl⟩

theorem witness_LogicCombinesWithAccumulator :
    (∃ m s1 r, logicResult (Instr.eorAby 0xFFFF).mnemonic s0.a m = some r ∧
      operandSource (Instr.eorAby 0xFFFF).operand = some (.mem (.aby 0xFFFF)) ∧
      readSource (.mem (.aby 0xFFFF)) s0 = .next (m, s1)) ∧
    (Instr.aacImm2B 0x80).mnemonic = .aac ∧ (Instr.aacImm2B 0x80).operand = .immediate 0x80 :=
  ⟨⟨_, _, _, rfl, rfl, rfl⟩, rfl, rfl⟩

theorem witness_BitTestsOperand :
    ∃ m s1, (Instr.bitAbs 0x0300).mnemonic = .bit ∧
      operandSource (Instr.bitAbs 0x0300).operand = some (.mem (.abs 0x0300)) ∧
      readSource (.mem (.abs 0x0300)) s0 = .next (m, s1) := ⟨_, _, rfl, rfl, rfl⟩

theorem witness_CompareSetsFlagsOnly :
    ∃ m s1, comparedReg (Instr.cpyAbs 0x0300).mnemonic = some .y ∧
      operandSource (Instr.cpyAbs 0x0300).operand = some (.mem (.abs 0x0300)) ∧
      readSource (.mem (.abs 0x0300)) s0 = .next (m, s1) := ⟨_, _, rfl, rfl, rfl⟩

theorem witness_LoadWritesRegister :
    ∃ m s1, loadedReg (Instr.ldxZpy 0xFF).mnemonic = some .x ∧
      operandSource (Instr.ldxZpy 0xFF).operand = some (.mem (.zpy 0xFF)) ∧
      readSource (.mem (.zpy 0xFF)) s0 = .next (m, s1) := ⟨_, _, rfl, rfl, rfl⟩

theorem witness_StoreWritesOneByte :
    ∃ v ea s1, storedByte (Instr.saxZpy 0xFF).mnemonic s0 = some v ∧
      operandMode (Instr.saxZpy 0xFF).operand = some (.zpy 0xFF) ∧
      resolve (.zpy 0xFF) s0 = .next (ea, s1) ∧ Mapped s0 ea ∧ s0.mem.wf = true ∧
      (cellOf s0 ea).isSome = true ∧ ChipsLeave s0 ea :=
  ⟨_, _, _, rfl, rfl, rfl, mapped_wholeRam _ rfl _, by decide, by decide,
    chipsLeave_of_no_turns _ rfl _⟩

/-- A store and a read-modify-write at 2000, just past RAM; and a pointer that no mount covers. -/
theorem witness_FaultingOperandAccessChangesNothing :
    (let s := { partlyMapped with x := 1 }
     (∃ ea s1, refusedOpcode s.params (Instr.staAbx 0x1FFF).opcode = false ∧
       operandMode (Instr.staAbx 0x1FFF).operand = some (.abx 0x1FFF) ∧
       accessesOperand (Instr.staAbx 0x1FFF).mnemonic = true ∧
       resolve (.abx 0x1FFF) s = .next (ea, s1) ∧ mountAt s ea = none) ∧
     ∃ ea s1, refusedOpcode s.params (Instr.sloAbx 0x1FFF).opcode = false ∧
       operandMode (Instr.sloAbx 0x1FFF).operand = some (.abx 0x1FFF) ∧
       accessesOperand (Instr.sloAbx 0x1FFF).mnemonic = true ∧
       resolve (.abx 0x1FFF) s = .next (ea, s1) ∧ mountAt s ea = none) ∧
    ∃ r, refusedOpcode s0.params (Instr.ldaIzx 0xFF).opcode = false ∧
      operandMode (Instr.ldaIzx 0xFF).operand = some (.izx 0xFF) ∧
      resolve (.izx 0xFF) { s0 with mounts := ramFrom 0x0100 0xFFFF } = .fault r :=
  ⟨⟨⟨_, _, by decide, rfl, rfl, rfl, by decide⟩, _, _, by decide, rfl, rfl, rfl, by decide⟩,
    _, by decide, rfl, rfl⟩

/-- JSR's second push below RAM; RTI's second pull above RAM; BRK's two vector bytes outside RAM, and
its third push, SP wrapping from 00 to FF. -/
theorem witness_FaultingStackAccessKeepsEarlierOnes :
    (let s := { s0 with mounts := ramFrom 0x01FD 0xFFFF }
     let i := Instr.jsr 0x9000
     ∃ vs u, 1 < (pushedBytes i.mnemonic s).length ∧
       transact ((pushWrites s s.sp (pushedBytes i.mnemonic s)).take 1) s = .next (vs, u) ∧
       mountAt s (stackAddr s (s.sp - BitVec.ofNat 8 1)) = none) ∧
    (let s := { s0 with sp := 0x01, mounts := ramFrom 0x0000 0x01FE }
     ∃ vs u, 2 < (pushedBytes Instr.brk.mnemonic s).length ∧
       transact ((pushWrites s s.sp (pushedBytes Instr.brk.mnemonic s)).take 2) s =
         .next (vs, u) ∧
       mountAt s (stackAddr s (s.sp - BitVec.ofNat 8 2)) = none) ∧
    (let s := { s0 with mounts := ramFrom 0x0000 0x01FE }
     ∃ vs u, 1 < pulledCount Instr.rti.mnemonic ∧
       transact ((pullReads s (s.sp + 1) (pulledCount Instr.rti.mnemonic)).take 1) s =
         .next (vs, u) ∧
       mountAt s (stackAddr s (s.sp + BitVec.ofNat 8 (1 + 1))) = none) ∧
    (let s := { s0 with mounts := ramFrom 0x0000 0xFFFD }
     ∃ vs u, transact (pushWrites s s.sp (pushedBytes .brk s) ++ [BusOp.rd 0xFFFE].take 0) s =
         .next (vs, u) ∧ mountAt s (0xFFFE + BitVec.ofNat 16 0) = none) ∧
    (let s := { s0 with mounts := ramFrom 0x0000 0xFFFE }
     ∃ vs u, transact (pushWrites s s.sp (pushedBytes .brk s) ++ [BusOp.rd 0xFFFE].take 1) s =
         .next (vs, u) ∧ mountAt s (0xFFFE + BitVec.ofNat 16 1) = none) :=
  ⟨⟨_, _, by decide, rfl, by decide⟩, ⟨_, _, by decide, rfl, by decide⟩,
    ⟨_, _, by decide, rfl, by decide⟩, ⟨_, _, rfl, by decide⟩, _, _, rfl, by decide⟩

/-- The fetch: PC outside RAM; the operand byte, addressed and immediate, just past it; and the
operand's second byte. -/
theorem witness_FaultingFetchOrServiceStops_fetch :
    (let s := { s0 with pc := 0x2000, mounts := ramFrom 0x0000 0x1FFF }
     s.status = .running ∧ boundary s = .next s ∧ s.booted = true ∧ mountAt s s.pc = none) ∧
    (let s := loaded { s0 with mounts := ramFrom 0x0000 0x8000 } [0xA5] []
     (∃ s1, memRead s.pc s = .next (0xA5, s1)) ∧
       decode [0xA5, 0x00, 0x00] = .ok (.ldaZp 0x00, [0x00]) ∧
       refusedOpcode s.params 0xA5 = false ∧ 2 ≤ (fetchReads (.ldaZp 0x00) s.pc).length ∧
       mountAt s (s.pc + 1) = none) ∧
    (let s := loaded { s0 with mounts := ramFrom 0x0000 0x8000 } [0xA9] []
     (∃ s1, memRead s.pc s = .next (0xA9, s1)) ∧
       decode [0xA9, 0x00, 0x00] = .ok (.ldaImm 0x00, [0x00]) ∧
       refusedOpcode s.params 0xA9 = false ∧ 2 ≤ (fetchReads (.ldaImm 0x00) s.pc).length ∧
       mountAt s (s.pc + 1) = none) ∧
    (let s := loaded { s0 with mounts := ramFrom 0x0000 0x8001 } [0xAD, 0x10] []
     (∃ s1 s2, memRead s.pc s = .next (0xAD, s1) ∧ memRead (s.pc + 1) s1 = .next (0x10, s2)) ∧
       decode [0xAD, 0x10, 0x00] = .ok (.ldaAbs 0x0010, []) ∧
       refusedOpcode s.params 0xAD = false ∧ (fetchReads (.ldaAbs 0x0010) s.pc).length = 3 ∧
       mountAt s (s.pc + 2) = none) :=
  ⟨⟨rfl, rfl, rfl, by decide⟩, ⟨⟨_, rfl⟩, rfl, by decide, by decide, by decide⟩,
    ⟨⟨_, rfl⟩, rfl, by decide, by decide, by decide⟩,
    ⟨_, _, rfl, rfl⟩, rfl, by decide, by decide, by decide⟩

/-- The NMI service: the throwaway address outside RAM; the second push; each vector byte. -/
theorem witness_FaultingFetchOrServiceStops_service :
    (let s := { s0 with mounts := ramFrom 0x0000 0x7FFF }
     s.params.nmiDummyAddr.getD s.pc = 0x8000 ∧ mountAt s 0x8000 = none) ∧
    (let s := { s0 with mounts := ramFrom 0x01FD 0xFFFF }
     let pushed := [highByte s.pc, lowByte s.pc, (s.p ||| 0x20) &&& 0xEF]
     ∃ vs u, transact (.rd 0x8000 :: .rd 0x8000 :: (pushWrites s s.sp pushed).take 1) s =
         .next (vs, u) ∧ mountAt s (stackAddr s (s.sp - BitVec.ofNat 8 1)) = none) ∧
    (let s := { s0 with mounts := ramFrom 0x0000 0xFFF9 }
     let pushed := [highByte s.pc, lowByte s.pc, (s.p ||| 0x20) &&& 0xEF]
     ∃ vs u, transact (.rd 0x8000 :: .rd 0x8000 :: (pushWrites s s.sp pushed ++
         [BusOp.rd 0xFFFA].take 0)) s = .next (vs, u) ∧
       mountAt s (0xFFFA + BitVec.ofNat 16 0) = none) ∧
    (let s := { s0 with mounts := ramFrom 0x0000 0xFFFA }
     let pushed := [highByte s.pc, lowByte s.pc, (s.p ||| 0x20) &&& 0xEF]
     ∃ vs u, transact (.rd 0x8000 :: .rd 0x8000 :: (pushWrites s s.sp pushed ++
         [BusOp.rd 0xFFFA].take 1)) s = .next (vs, u) ∧
       mountAt s (0xFFFA + BitVec.ofNat 16 1) = none) :=
  ⟨⟨rfl, by decide⟩, ⟨_, _, rfl, by decide⟩, ⟨_, _, rfl, by decide⟩, _, _, rfl, by decide⟩

theorem witness_ShiftsAndRotates :
    (∃ r c, (Instr.rorAcc).operand = .accumulator ∧
      shiftedNat (Instr.rorAcc).mnemonic s0.a.toNat (flag .c s0).toNat = some r ∧
      shiftedOff (Instr.rorAcc).mnemonic s0.a.toNat = some c) ∧
    ∃ ea s1 v s2 r c, operandMode (Instr.aslAbx 0xFFFF).operand = some (.abx 0xFFFF) ∧
      resolve (.abx 0xFFFF) s0 = .next (ea, s1) ∧ memRead ea s1 = .next (v, s2) ∧
      shiftedNat (Instr.aslAbx 0xFFFF).mnemonic v.toNat (flag .c s0).toNat = some r ∧
      shiftedOff (Instr.aslAbx 0xFFFF).mnemonic v.toNat = some c ∧ s0.mem.wf = true ∧
      (cellOf s0 ea).isSome = true ∧ ChipsLeave s0 ea :=
  ⟨⟨_, _, rfl, rfl, rfl⟩, _, _, _, _, _, _, rfl, rfl, rfl, rfl, rfl, by decide, by decide,
    chipsLeave_of_no_turns _ rfl _⟩

/-- INC of FF and DEC of 00 wrap. -/
theorem witness_MemoryIncrementAndDecrement :
    (∃ ea s1 s2, operandMode (Instr.incZp 0x10).operand = some (.zp 0x10) ∧
      resolve (.zp 0x10) (loaded s0 [] [(0x0010, 0xFF)]) = .next (ea, s1) ∧
      memRead ea s1 = .next (0xFF, s2) ∧ (0x00 : Byte).toNat = ((0xFF : Byte).toNat + 1) % 256 ∧
      ChipsLeave (loaded s0 [] [(0x0010, 0xFF)]) ea) ∧
    ∃ ea s1 s2, operandMode (Instr.decZp 0x10).operand = some (.zp 0x10) ∧
      resolve (.zp 0x10) s0 = .next (ea, s1) ∧ memRead ea s1 = .next (0x00, s2) ∧
      (0xFF : Byte).toNat = ((0x00 : Byte).toNat + 255) % 256 :=
  ⟨⟨_, _, _, rfl, rfl, rfl, by decide, chipsLeave_of_no_turns _ rfl _⟩,
    _, _, _, rfl, rfl, rfl, by decide⟩

theorem witness_RegisterMoves :
    movedReg (Instr.inx).mnemonic { s0 with x := 0xFF } = some (.x, 0) ∧
    movedReg (Instr.tsx).mnemonic s0 = some (.x, 0xFD) := by decide

theorem witness_FlagInstructionsWriteOneFlag :
    writtenFlag (Instr.clv).mnemonic = some (.v, false) ∧
    writtenFlag (Instr.sed).mnemonic = some (.d, true) := by decide

theorem witness_NopsOnlyResolve :
    (∃ ea s1, (Instr.nopAbx1C 0xFFFF).mnemonic = .nop ∧
      operandMode (Instr.nopAbx1C 0xFFFF).operand = some (.abx 0xFFFF) ∧
      resolve (.abx 0xFFFF) s0 = .next (ea, s1)) ∧
    (Instr.nopImm80 0xFF).mnemonic = .nop ∧ operandMode (Instr.nopImm80 0xFF).operand = none :=
  ⟨⟨_, _, rfl, rfl, rfl⟩, rfl, rfl⟩

/-- R189: offset 80 from 8002 is 7F82; the branch is taken, and untaken where N is clear. -/
theorem witness_BranchesTestOneFlag :
    let s := { s0 with pc := 0x8002, p := 0xA4 }
    branchTest (Instr.bmi 0x80).mnemonic = some (.n, true) ∧
      (Instr.bmi 0x80).operand = .addressed (.rel 0x80) ∧
      ((0x7F82 : Word).toNat : Int) = ((s.pc.toNat : Int) + (0x80 : Byte).toInt) % 65536 ∧
      flag .n s = true ∧ flag .n s0 ≠ true := by decide

theorem witness_JumpLoadsPc :
    ∃ ea s1, (Instr.jmpInd 0x02FF).mnemonic = .jmp ∧
      operandMode (Instr.jmpInd 0x02FF).operand = some (.ind 0x02FF) ∧
      resolve (.ind 0x02FF) s0 = .next (ea, s1) := ⟨_, _, rfl, rfl, rfl⟩

/-- In whole RAM the stack addresses are distinct cells, also where SP wraps below 00. -/
theorem witness_JsrPushesReturnAddress :
    let s := { s0 with pc := 0x0000, sp := 0x00 }
    (0xFFFF : Word).toNat = (s.pc.toNat + 65535) % 65536 ∧ Mapped s (stackAddr s s.sp) ∧
      Mapped s (stackAddr s (s.sp - 1)) ∧ s.mem.wf = true ∧
      DistinctCells s (stackAddr s s.sp) (stackAddr s (s.sp - 1)) ∧ ∀ addr, ChipsLeave s addr :=
  ⟨by decide, mapped_wholeRam _ rfl _, mapped_wholeRam _ rfl _, by decide,
    ⟨by decide, by decide, by decide⟩, chipsLeave_of_no_turns _ rfl⟩

theorem witness_RtsReturns :
    let s := { s0 with sp := 0xFF }
    Mapped s (stackAddr s (s.sp + 1)) ∧ Mapped s (stackAddr s (s.sp + 2)) ∧
      ChipsLeave s (stackAddr s (s.sp + 2)) :=
  ⟨mapped_wholeRam _ rfl _, mapped_wholeRam _ rfl _, chipsLeave_of_no_turns _ rfl _⟩

theorem witness_ReturnsUndoCalls :
    s0.mem.wf = true ∧ DistinctCells s0 (stackAddr s0 s0.sp) (stackAddr s0 (s0.sp - 1)) ∧
    StackInRam s0 ∧ (∀ addr, ChipsLeave s0 addr) ∧ Mapped s0 0xFFFE ∧ Mapped s0 0xFFFF :=
  ⟨by decide, ⟨by decide, by decide, by decide⟩, stackInRam_wholeRam _ rfl rfl,
    chipsLeave_of_no_turns _ rfl, mapped_wholeRam _ rfl _, mapped_wholeRam _ rfl _⟩

theorem witness_PushInstructions :
    (Instr.pha = .pha ∧ s0.a = s0.a) ∧ (Instr.php = .php ∧ (0x34 : Byte) = s0.p ||| 0x30) ∧
    Mapped s0 (stackAddr s0 s0.sp) ∧ s0.mem.wf = true ∧
    (cellOf s0 (stackAddr s0 s0.sp)).isSome = true ∧ ChipsLeave s0 (stackAddr s0 s0.sp) :=
  ⟨⟨rfl, rfl⟩, ⟨rfl, by decide⟩, mapped_wholeRam _ rfl _, by decide, by decide,
    chipsLeave_of_no_turns _ rfl _⟩

theorem witness_PullInstructions :
    let s := { s0 with sp := 0xFF }
    Mapped s (stackAddr s (s.sp + 1)) ∧ ramByte s (stackAddr s (s.sp + 1)) = some 0x00 :=
  ⟨mapped_wholeRam _ rfl _, by decide⟩

/-- BRK at FFFF: the return address wraps; the vector's cells are no stack cells. -/
theorem witness_BrkEntersHandler :
    let s := { s0 with pc := 0x0000 }
    (0x0001 : Word).toNat = (s.pc.toNat + 1) % 65536 ∧ (∀ addr, Mapped s addr) ∧
      s.mem.wf = true ∧ StackInRam s ∧ (∀ addr, ChipsLeave s addr) ∧
      (∀ sp : Byte, cellOf s 0xFFFE ≠ cellOf s (stackAddr s sp)) ∧
      ∀ sp : Byte, cellOf s 0xFFFF ≠ cellOf s (stackAddr s sp) :=
  ⟨by decide, mapped_wholeRam _ rfl, by decide, stackInRam_wholeRam _ rfl rfl,
    chipsLeave_of_no_turns _ rfl, by decide, by decide⟩

theorem witness_RtiReturns :
    let s := { s0 with sp := 0xFD }
    Mapped s (stackAddr s (s.sp + 1)) ∧ Mapped s (stackAddr s (s.sp + 2)) ∧
      Mapped s (stackAddr s (s.sp + 3)) ∧ ∀ addr, ChipsLeave s addr :=
  ⟨mapped_wholeRam _ rfl _, mapped_wholeRam _ rfl _, mapped_wholeRam _ rfl _,
    chipsLeave_of_no_turns _ rfl⟩

/-- A request stamped 0 is due at `cyc` 2 and not at 1. -/
theorem witness_NmiServiceEntersHandler :
    let s := { s0 with cyc := 2, nmi := ⟨true, 0, false⟩ }
    s.params.nmiLatency = .formula ∧ (s.nmi.pending = true ∧ s.nmi.raisedAt + 1 < s.cyc) ∧
      s.params.nmiDummyAddr.getD s.pc = 0x8000 ∧ (∀ addr, Mapped s addr) ∧
      s.mem.wf = true ∧ StackInRam s ∧ (∀ addr, ChipsLeave s addr) ∧
      (∀ sp : Byte, cellOf s 0xFFFA ≠ cellOf s (stackAddr s sp)) ∧
      (∀ sp : Byte, cellOf s 0xFFFB ≠ cellOf s (stackAddr s sp)) ∧
      ¬(s.nmi.pending = true ∧ s.nmi.raisedAt + 1 < ({ s with cyc := 1 } : State).cyc) :=
  ⟨rfl, by decide, rfl, mapped_wholeRam _ rfl, by decide, stackInRam_wholeRam _ rfl rfl,
    chipsLeave_of_no_turns _ rfl, by decide, by decide, by decide⟩

theorem witness_NmiServicedByTheSecondCheck :
    let s := { s0 with
      params := { Params.default with nmiLatency := .firstOrSecondCheck }
      nmi := ⟨true, 0, false⟩, defers := [true] }
    s.params.nmiLatency = .firstOrSecondCheck ∧ s.nmi.pending = true ∧ s.nmi.examined = false ∧
      s.defers = true :: [] ∧ ({ s with nmi := ⟨true, 0, true⟩ } : State).nmi.examined = true :=
  ⟨rfl, rfl, rfl, rfl, rfl⟩

theorem witness_ResetSetsRegisters :
    s0.params.resetClearsLatch = false ∧
    ({ Params.default with resetClearsLatch := true } : Params).resetClearsLatch = true :=
  ⟨rfl, rfl⟩

theorem witness_BootLoadsResetVector :
    (s0.status = .running ∧ Mapped s0 0xFFFC ∧ Mapped s0 0xFFFD ∧ ChipsLeave s0 0xFFFD) ∧
    (mountAt (poweredOn [] []) 0xFFFC = none ∧ (poweredOn [] []).status = .running) ∧
    (let s := poweredOn [] (ramFrom 0x0000 0xFFFC)
     s.status = .running ∧ (∃ lo s1, memRead 0xFFFC (resetCore s) = .next (lo, s1)) ∧
       mountAt s 0xFFFD = none) :=
  ⟨⟨rfl, mapped_wholeRam _ rfl _, mapped_wholeRam _ rfl _, chipsLeave_of_no_turns _ rfl _⟩,
    ⟨rfl, rfl⟩, rfl, ⟨_, _, rfl⟩, by decide⟩

theorem witness_LaxLoadsTwice :
    ∃ ea s1, (Instr.laxIzy 0xFF).mnemonic = .lax ∧
      operandMode (Instr.laxIzy 0xFF).operand = some (.izy 0xFF) ∧
      resolve (.izy 0xFF) s0 = .next (ea, s1) ∧ Mapped s0 ea ∧ ChipsLeave s0 ea :=
  ⟨_, _, rfl, rfl, rfl, mapped_wholeRam _ rfl _, chipsLeave_of_no_turns _ rfl _⟩

theorem witness_ShiftAndLogicCombine :
    ∃ ea s1 v s2 r c, ((Instr.rlaIzx 0xFF).mnemonic, Mnemonic.rol, Mnemonic.and) ∈
        [(Mnemonic.slo, Mnemonic.asl, Mnemonic.ora), (.rla, .rol, .and), (.sre, .lsr, .eor)] ∧
      operandMode (Instr.rlaIzx 0xFF).operand = some (.izx 0xFF) ∧
      resolve (.izx 0xFF) s0 = .next (ea, s1) ∧ memRead ea s1 = .next (v, s2) ∧
      shiftedNat .rol v.toNat (flag .c s0).toNat = some r ∧ shiftedOff .rol v.toNat = some c ∧
      s0.mem.wf = true ∧ (cellOf s0 ea).isSome = true ∧ ChipsLeave s0 ea :=
  ⟨_, _, _, _, _, _, by decide, rfl, rfl, rfl, rfl, rfl, by decide, by decide,
    chipsLeave_of_no_turns _ rfl _⟩

theorem witness_ModifyAndArithmeticCombine :
    ∃ ea s1 v s2, operandMode (Instr.rraZp 0x10).operand = some (.zp 0x10) ∧
      resolve (.zp 0x10) s0 = .next (ea, s1) ∧ memRead ea s1 = .next (v, s2) ∧
      (Instr.rraZp 0x10).mnemonic = .rra ∧ (Instr.dcpZp 0x10).mnemonic = .dcp ∧
      (Instr.isbZp 0x10).mnemonic = .isb ∧
      (0x00 : Byte).toNat = v.toNat / 2 + (flag .c s0).toNat * 128 ∧
      (0xFF : Byte).toNat = (v.toNat + 255) % 256 ∧ (0x01 : Byte).toNat = (v.toNat + 1) % 256 ∧
      s0.mem.wf = true ∧ (cellOf s0 ea).isSome = true ∧ ChipsLeave s0 ea :=
  ⟨_, _, _, _, rfl, rfl, rfl, rfl, rfl, rfl, by decide, by decide, by decide, by decide, by decide,
    chipsLeave_of_no_turns _ rfl _⟩

theorem witness_AdmittedUnnamedInstructions :
    ∃ m s1 m' s1', admitting.params.admitUnnamedUndoc = true ∧
      operandSource (Instr.lar 0xFFFF).operand = some (.mem (.aby 0xFFFF)) ∧
      readSource (.mem (.aby 0xFFFF)) admitting = .next (m, s1) ∧
      operandSource (Instr.xaa 0xFF).operand = some (.imm 0xFF) ∧
      readSource (.imm 0xFF) admitting = .next (m', s1') ∧
      (Instr.lar 0xFFFF).mnemonic = .lar ∧ (Instr.xaa 0xFF).mnemonic = .xaa :=
  ⟨_, _, _, _, rfl, rfl, rfl, rfl, rfl, rfl, rfl⟩

end Sys2Proof.Tests
end

section
/-! PROOFS. Reading an operand (R101, R104): what follows a resolution, and O25. -/

namespace Sys2Proof.Machine

/-- The frame of transactions around which only a surcharge is charged: no register and no flag
changes. -/
theorem Quiet.frame_of_charge {ops : List BusOp} {l : List Word} {n : Nat} {s t : State}
    (q : Quiet (charge n s) t) (h : Did ops l s t) : Frame [] [] l s t :=
  h.frame
    (regsKept_of (fun _ => q.a_eq) (fun _ => q.x_eq) (fun _ => q.y_eq) (fun _ => q.sp_eq))
    (fun f _ => q.flag_eq f)

/-- Once its address is resolved, reading a memory operand is the read at that address. -/
theorem readSource_mem_eq {m : AddrMode} {s s1 : State} {ea : Word}
    (h : resolve m s = .next (ea, s1)) : readSource (.mem m) s = memRead ea s1 := by
  simp only [readSource, h, andThen_next]

/-- Settles O25: the read at the resolved, mapped address answers; the resolution before it makes
reads alone, so a byte of RAM that no other chip changes is the one from before it. -/
theorem operandReadIsOneTransaction : Obligations.OperandReadIsOneTransaction := by
  unfold Obligations.OperandReadIsOneTransaction
  refine ⟨fun _ _ => rfl, fun s s1 m ea hres hmap => ?_⟩
  obtain ⟨v, t, hread⟩ := memRead_mapped hmap
  obtain ⟨n, ops, _, qres, dres⟩ := resolve_did hres
  obtain ⟨qread, dread, hram⟩ := memRead_did hread
  have hquiet : Quiet (charge n s) t := quiet_after qres qread
  have hbefore : ChipsLeave s ea → ∀ b, ramByte s ea = some b → v = b := fun hc b hb =>
    hram b ((dres.ramByte_eq hc).trans hb)
  exact ⟨v, t, hread, (readSource_mem_eq hres).trans hread, hram, hbefore, dread.trace,
    qread.cyc_eq, hquiet.pc_eq, hquiet.frame_of_charge (dres.trans dread)⟩

end Sys2Proof.Machine
end

section
/-! PROOFS. The frame of every instruction (R22 to R24, R29, R58): what the tables `writtenRegs`,
`writtenFlags` and `writesBus` leave out is unchanged. O14 and O15. -/

namespace Sys2Proof.Machine

/-! ### Within: a frame that composes -/

/-- From `s` to `t` no register outside `rs` and no bit of P outside `fs` changed, and of memory only
the addresses `l` were stored to. -/
structure Within (rs : List Reg) (fs : List Flag) (l : List Word) (s t : State) : Prop where
  regs : RegsKept rs s t
  flags : FlagsKept fs s t
  did : ∃ ops, Did ops l s t

variable {rs rs' : List Reg} {fs fs' : List Flag} {l l' : List Word} {s t u : State} {mn : Mnemonic}

theorem Within.refl (s : State) : Within rs fs [] s s :=
  ⟨fun _ _ => rfl, fun _ _ => rfl, _, Did.refl s⟩

theorem Within.trans (h : Within rs fs l s t) (k : Within rs fs l' t u) :
    Within rs fs (l' ++ l) s u :=
  let ⟨_, d⟩ := h.did
  let ⟨_, e⟩ := k.did
  ⟨fun r hr => (k.regs r hr).trans (h.regs r hr), fun f hf => (k.flags f hf).trans (h.flags f hf),
    _, d.trans e⟩

theorem Within.mono (h : Within rs fs l s t) (hr : rs ⊆ rs') (hf : fs ⊆ fs') :
    Within rs' fs' l s t :=
  ⟨fun r k => h.regs r fun e => k (hr e), fun f k => h.flags f fun e => k (hf e), h.did⟩

/-- What changes no register and no flag is within every table. -/
theorem Within.of_nil (h : Within [] [] l s t) : Within rs fs l s t :=
  h.mono (List.nil_subset _) (List.nil_subset _)

theorem Within.frame (h : Within rs fs l s t) : Frame rs fs l s t :=
  let ⟨_, d⟩ := h.did
  d.frame h.regs h.flags

theorem Handled.within (h : Handled rs fs s t) : Within rs fs [] s t :=
  ⟨h.regs, h.flags, _, h.did⟩

theorem within_setPc (v : Word) (s : State) : Within rs fs [] s (s.setPc v) :=
  ⟨fun r _ => by cases r <;> rfl, fun _ _ => rfl, _, Did.setPc s v⟩

theorem within_charge (n : Nat) (s : State) : Within rs fs [] s (charge n s) :=
  ⟨fun r _ => by cases r <;> rfl, fun _ _ => rfl, _, Did.charge s n⟩

theorem within_chargeBase (op : Byte) (s : State) : Within rs fs [] s (chargeBase op s) :=
  within_charge _ s

/-- Transactions around which a surcharge at most is charged. -/
theorem Quiet.within {n : Nat} {ops : List BusOp} (q : Quiet (charge n s) t) (d : Did ops l s t) :
    Within rs fs l s t :=
  ⟨fun r _ => q.regsKept r (by simp) |>.trans (by cases r <;> rfl), fun f _ => q.flag_eq f, _, d⟩

/-- Transactions around which SP moves. -/
theorem Quiet.within_sp {v : Byte} {ops : List BusOp} (q : Quiet (s.setSp v) t)
    (d : Did ops l s t) : Within [.sp] fs l s t :=
  ⟨regsKept_of (fun _ => q.a_eq) (fun _ => q.x_eq) (fun _ => q.y_eq) (by simp),
    fun f _ => q.flag_eq f, _, d⟩

/-! ### The shared operations -/

theorem resolve_within {m : AddrMode} {ea : Word} (h : resolve m s = .next (ea, t)) :
    Within rs fs [] s t :=
  let ⟨_, _, _, q, d⟩ := resolve_did h
  q.within d

theorem readSource_within {src : Source} {v : Byte} (h : readSource src s = .next (v, t)) :
    Within rs fs [] s t :=
  let ⟨_, _, _, q, d⟩ := readSource_did h
  q.within d

theorem memRead_within {addr : Word} {v : Byte} (h : memRead addr s = .next (v, t)) :
    Within rs fs [] s t :=
  let ⟨q, d, _⟩ := memRead_did h
  Quiet.within (n := 0) q d

theorem memWrite_within {addr : Word} {v : Byte} (h : memWrite addr v s = .next t) :
    Within rs fs [addr] s t :=
  let ⟨q, d, _⟩ := memWrite_did h
  Quiet.within (n := 0) q d

/-- A read-modify-write on the accumulator. -/
theorem modifyAt_acc_within {r f} (hm : modifying mn = some (r, f))
    (h : modifyAt .acc r f s = .next t) : Within [.a] (writtenFlags mn) [] s t := by
  cases h
  have hA : Within [.a] (writtenFlags mn) [] s (s.setA (r s.a s)) :=
    ⟨by apply regsKept_of <;> simp, fun _ _ => rfl, _, Did.setA s _⟩
  exact hA.trans ((modifying_handled hm _ _ _).within.mono (by simp) (List.Subset.refl _))

/-- A read-modify-write on memory: a read and a write, no register. -/
theorem modifyAt_mem_within {r f} {ea : Word} (hm : modifying mn = some (r, f))
    (h : modifyAt (.mem ea) r f s = .next t) : Within [] (writtenFlags mn) [ea] s t := by
  obtain ⟨⟨v, s1⟩, h1, h2⟩ := andThen_eq_next.mp h
  obtain ⟨s2, h3, ⟨⟩⟩ := andThen_eq_next.mp h2
  have hbus : Within [] (writtenFlags mn) [ea] s s2 :=
    (memRead_within h1).trans (memWrite_within (addr := ea) h3)
  exact hbus.trans (modifying_handled hm _ _ _).within

/-! ### InTables: within what the tables name for a mnemonic -/

/-- From `s` to `t` only what the tables list for the mnemonic changed; memory only if it writes the
bus. -/
def InTables (mn : Mnemonic) (s t : State) : Prop :=
  ∃ l, Within (writtenRegs mn) (writtenFlags mn) l s t ∧ (writesBus mn = false → l = [])

/-- Changes of registers and flags that the tables list, and reads. -/
theorem Within.inTables (h : Within (writtenRegs mn) (writtenFlags mn) [] s t) : InTables mn s t :=
  ⟨_, h, fun _ => rfl⟩

/-- An instruction that writes the bus may store anywhere. -/
theorem Within.inTables_of_writesBus (h : Within (writtenRegs mn) (writtenFlags mn) l s t)
    (hw : writesBus mn = true) : InTables mn s t :=
  ⟨_, h, fun hf => absurd (hw.symm.trans hf) (by decide)⟩

theorem InTables.after (k : InTables mn t u) (h : Within [] [] [] s t) : InTables mn s u := by
  obtain ⟨l, k, hl⟩ := k
  exact ⟨l, by simpa using h.of_nil.trans k, hl⟩

theorem InTables.charged (h : InTables mn s t) (op : Byte) : InTables mn s (chargeBase op t) := by
  obtain ⟨l, h, hl⟩ := h
  exact ⟨l, h.trans (within_chargeBase op t), hl⟩

theorem storingValue_writesBus {v} (h : storingValue mn = some v) : writesBus mn = true := by
  cases mn <;> cases h <;> rfl

theorem modifying_writesBus {p} (h : modifying mn = some p) : writesBus mn = true := by
  cases mn <;> cases h <;> rfl

theorem combining_writesBus {p} (h : combining mn = some p) : writesBus mn = true := by
  cases mn <;> cases h <;> rfl

/-- The two halves of a combined instruction write nothing the tables do not list for the whole. -/
theorem combining_tables {m1 m2 : Mnemonic} (h : combining mn = some (m1, m2)) :
    writtenFlags m1 ⊆ writtenFlags mn ∧ writtenFlags m2 ⊆ writtenFlags mn ∧
      writtenRegs m2 ⊆ writtenRegs mn := by
  cases mn <;> cases h <;> decide

/-- Only shifts and rotates have the accumulator as their operand. -/
theorem accumulator_writtenRegs {i : Instr} (h : operandDest i.operand = some .acc) :
    [.a] ⊆ writtenRegs i.mnemonic := by
  cases i <;> cases h <;> decide

theorem addressHandler_inTables {h} {ea : Word} (hm : addressHandler mn = some h)
    (he : h ea s = .next t) : InTables mn s t := by
  have branch_inTables : ∀ {f b}, branch f b ea s = .next t → InTables mn s t := by
    intro f b hb
    unfold branch at hb
    split at hb <;> cases hb
    · exact Within.inTables ((within_charge _ s).trans (within_setPc _ _))
    · exact (Within.refl s).inTables
  cases mn <;> simp only [addressHandler, reduceCtorEq, Option.some.injEq] at hm <;> subst hm
  case jmp => cases he; exact (within_setPc _ s).inTables
  case jsr =>
    obtain ⟨s1, h1, ⟨⟩⟩ := andThen_eq_next.mp he
    obtain ⟨q, d, _⟩ := push16_did h1
    exact Within.inTables_of_writesBus ((q.within_sp d).trans (within_setPc _ s1)) rfl
  case nop => cases he; exact (Within.refl s).inTables
  all_goals exact branch_inTables he

theorem push8_inTables {v : Byte} (h : push8 v s = .next t) (hr : .sp ∈ writtenRegs mn)
    (hw : writesBus mn = true) : InTables mn s t :=
  let ⟨q, d, _⟩ := push8_did h
  ((q.within_sp d).mono (by simpa using hr) (List.Subset.refl _)).inTables_of_writesBus hw

theorem systemHandler_inTables {h} (hm : systemHandler mn = some h) (he : h s = .next t) :
    InTables mn s t := by
  cases mn <;> simp only [systemHandler, reduceCtorEq, Option.some.injEq] at hm <;> subst hm
  case rts =>
    obtain ⟨⟨ret, s1⟩, h1, ⟨⟩⟩ := andThen_eq_next.mp he
    obtain ⟨q, d, _⟩ := pull16_did h1
    exact Within.inTables ((q.within_sp d).trans (within_setPc _ s1))
  case pla =>
    obtain ⟨⟨v, s1⟩, h1, ⟨⟩⟩ := andThen_eq_next.mp he
    obtain ⟨q, d, _⟩ := pull8_did h1
    exact Within.inTables (((q.within_sp d).mono (by decide) (List.Subset.refl _)).trans
      ((ldaWith_handled v s1).within.mono (by decide) (by decide)))
  case plp =>
    obtain ⟨⟨v, s1⟩, h1, ⟨⟩⟩ := andThen_eq_next.mp he
    obtain ⟨q, d, _⟩ := pull8_did h1
    exact Within.inTables (Within.trans (q.within_sp d)
      ⟨fun r _ => by cases r <;> rfl, fun f hf => absurd (by cases f <;> decide) hf, _,
        Did.setP s1 _⟩)
  case rti =>
    obtain ⟨v, hi, lo, q, d, _⟩ := trapReturn_did he
    exact Within.inTables ⟨regsKept_of (fun _ => q.a_eq) (fun _ => q.x_eq) (fun _ => q.y_eq)
      (by simp [writtenRegs]), fun f hf => absurd (by cases f <;> decide) hf, _, d⟩
  case brk =>
    obtain ⟨hi, lo, q, d, _⟩ := trapEntry_did he
    exact Within.inTables_of_writesBus ⟨regsKept_of (fun _ => q.a_eq) (fun _ => q.x_eq)
      (fun _ => q.y_eq) (by simp [writtenRegs]),
      fun f hf => (q.flag_eq f).trans ((setFlag_handled .i true _).flags f hf), _, d⟩ rfl
  all_goals exact push8_inTables he (by decide) rfl

/-! ### Every instruction -/

/-- The frame of every instruction that answers (R22 to R24, R29, R58). -/
theorem exec_inTables {i : Instr} (h : exec i s = .next t) : InTables i.mnemonic s t := by
  rcases exec_shape i with ⟨hd, src, hm, hs⟩ | ⟨hd, src, hm, hs⟩ | ⟨v, m, hm, hs⟩ |
    ⟨r, f, d, hm, hs⟩ | ⟨m1, m2, r, f, hd, m, hm, h1, h2, hs⟩ | ⟨m, hm, hs⟩ | ⟨hd, hm⟩ |
    ⟨hm, hs⟩ | ⟨hd, m, hm, hs⟩ | ⟨hd, hm⟩ | hm
  · rw [exec_reading hm hs] at h
    obtain ⟨⟨v, s1⟩, e1, ⟨⟩⟩ := andThen_eq_next.mp h
    exact ((readingHandler_handled hm v s1).within.inTables.after (readSource_within e1)).charged _
  · rw [exec_admitted hm hs] at h
    unfold admittedOp at h
    split at h
    · obtain ⟨⟨v, s1⟩, e1, ⟨⟩⟩ := andThen_eq_next.mp h
      exact ((admittedHandler_handled hm v s1).within.inTables.after
        (readSource_within e1)).charged _
    · cases h
  · rw [exec_storing hm hs] at h
    obtain ⟨⟨ea, s1⟩, e1, e2⟩ := andThen_eq_next.mp h
    obtain ⟨s2, e3, ⟨⟩⟩ := andThen_eq_next.mp e2
    exact (((memWrite_within e3).inTables_of_writesBus (storingValue_writesBus hm)).after
      (resolve_within e1)).charged _
  · rw [exec_modifying hm hs] at h
    obtain ⟨⟨loc, s1⟩, e1, e2⟩ := andThen_eq_next.mp h
    obtain ⟨s2, e3, ⟨⟩⟩ := andThen_eq_next.mp e2
    cases d with
    | acc =>
      cases e1
      exact (((modifyAt_acc_within hm e3).mono (accumulator_writtenRegs hs)
        (List.Subset.refl _)).inTables).charged _
    | mem m =>
      obtain ⟨⟨ea, s0⟩, e5, ⟨⟩⟩ := andThen_eq_next.mp e1
      exact ((((modifyAt_mem_within hm e3).mono (List.nil_subset _)
        (List.Subset.refl _)).inTables_of_writesBus (modifying_writesBus hm)).after
        (resolve_within e5)).charged _
  · rw [exec_combining hm h1 h2 hs] at h
    obtain ⟨⟨ea, s1⟩, e1, e2⟩ := andThen_eq_next.mp h
    obtain ⟨s2, e3, e4⟩ := andThen_eq_next.mp e2
    obtain ⟨⟨v, s3⟩, e5, ⟨⟩⟩ := andThen_eq_next.mp e4
    obtain ⟨flags1, flags2, regs2⟩ := combining_tables hm
    have modified : Within (writtenRegs i.mnemonic) (writtenFlags i.mnemonic) [ea] s1 s2 :=
      (modifyAt_mem_within h1 e3).mono (List.nil_subset _) flags1
    have handled := (readingHandler_handled h2 v s3).within.mono regs2 flags2
    exact ((((modified.trans (memRead_within e5)).trans handled).inTables_of_writesBus
      (combining_writesBus hm)).after (resolve_within e1)).charged _
  · rw [exec_lax hm hs] at h
    obtain ⟨⟨ea, s1⟩, e1, e2⟩ := andThen_eq_next.mp h
    obtain ⟨⟨v, s2⟩, e3, e4⟩ := andThen_eq_next.mp e2
    obtain ⟨⟨w, s3⟩, e5, ⟨⟩⟩ := andThen_eq_next.mp e4
    rw [hm]
    have first : Within (writtenRegs .lax) (writtenFlags .lax) [] s1 (ldaWith v s2) :=
      (memRead_within e3).trans ((ldaWith_handled v s2).within.mono (by decide) (by decide))
    have second : Within (writtenRegs .lax) (writtenFlags .lax) [] _ (ldxWith w s3) :=
      (memRead_within e5).trans ((ldxWith_handled w s3).within.mono (by decide) (by decide))
    exact ((first.trans second).inTables.after (resolve_within e1)).charged _
  · rw [exec_implied hm] at h
    cases h
    exact (impliedHandler_handled hm s).within.inTables.charged _
  · rw [exec_nop hm hs] at h
    cases h
    exact (Within.refl s).inTables.charged _
  · rw [exec_address hm hs] at h
    obtain ⟨⟨ea, s1⟩, e1, e2⟩ := andThen_eq_next.mp h
    obtain ⟨s2, e3, ⟨⟩⟩ := andThen_eq_next.mp e2
    exact ((addressHandler_inTables hm e3).after (resolve_within e1)).charged _
  · rw [exec_system hm] at h
    obtain ⟨s2, e3, ⟨⟩⟩ := andThen_eq_next.mp h
    exact (systemHandler_inTables hm e3).charged _
  · rw [exec_refused hm] at h; cases h

/-- Settles O14: the registers' and the flags' part of the frame of every instruction. -/
theorem flagsAndRegistersChangeOnlyByTheirWriters :
    Obligations.FlagsAndRegistersChangeOnlyByTheirWriters := by
  unfold Obligations.FlagsAndRegistersChangeOnlyByTheirWriters
  intro i s t h
  obtain ⟨_, w, _⟩ := exec_inTables h
  exact ⟨w.flags, w.regs⟩

/-- Settles O15: the rest of that frame; an instruction that writes no bus cell stores nowhere. -/
theorem onlyStoresChangeMemory : Obligations.OnlyStoresChangeMemory := by
  unfold Obligations.OnlyStoresChangeMemory
  intro i s t h
  obtain ⟨_, w, stored⟩ := exec_inTables h
  obtain ⟨_, _, only, env, latch⟩ := w.frame
  exact ⟨env, latch, fun hb => stored hb ▸ only⟩

end Sys2Proof.Machine
end

section
/-! PROOFS. What a whole step keeps (R21, R28, R30, R60, R272, R302), part by part: the host's calls,
the fetch and the instruction, the NMI check. O10, O11 and O12. -/

namespace Sys2Proof.Machine

/-! ### Bits 4 and 5 of P (R28) -/

theorem statusBitsFixed_eq_flags (s : State) :
    statusBitsFixed s.p = (flag .u s && !flag .b s) := rfl

theorem statusBitsFixed_congr {s t : State} (hu : flag .u t = flag .u s)
    (hb : flag .b t = flag .b s) : statusBitsFixed t.p = statusBitsFixed s.p := by
  rw [statusBitsFixed_eq_flags, statusBitsFixed_eq_flags, hu, hb]

theorem statusBitsFixed_restoredP (v : Byte) : statusBitsFixed (restoredP v) = true := by
  unfold statusBitsFixed
  rw [restoredP_u, restoredP_b]
  rfl

theorem trapEntry_statusBits {ret vec : Word} {p : Byte} {s t : State}
    (h : trapEntry ret p vec s = .next t) : statusBitsFixed t.p = statusBitsFixed s.p := by
  obtain ⟨_, _, q, _⟩ := trapEntry_did h
  have kept := (setFlag_handled .i true (s.setSp (s.sp - 3))).flags
  exact statusBitsFixed_congr ((q.flag_eq .u).trans (kept .u (by decide)))
    ((q.flag_eq .b).trans (kept .b (by decide)))

/-- PLP and RTI, the only instructions that write all of P, restore bits 4 and 5 (R208, R221). -/
theorem exec_restores_statusBits {i : Instr} {s t : State}
    (hi : i.mnemonic = .plp ∨ i.mnemonic = .rti) (h : exec i s = .next t) :
    statusBitsFixed t.p = true := by
  rcases hi with hi | hi
  · rw [exec_system (h := pullStatus) (by rw [hi]; rfl)] at h
    obtain ⟨s1, h1, ⟨⟩⟩ := andThen_eq_next.mp h
    obtain ⟨⟨v, s2⟩, _, ⟨⟩⟩ := andThen_eq_next.mp h1
    exact statusBitsFixed_restoredP v
  · rw [exec_system (h := trapReturn) (by rw [hi]; rfl)] at h
    obtain ⟨s1, h1, ⟨⟩⟩ := andThen_eq_next.mp h
    obtain ⟨v, _, _, q, _⟩ := trapReturn_did h1
    exact (congrArg statusBitsFixed q.p_eq).trans (statusBitsFixed_restoredP v)

/-- No instruction but PLP and RTI writes bit 4 or 5. -/
theorem statusBits_not_written {mn : Mnemonic} (h1 : mn ≠ .plp) (h2 : mn ≠ .rti) :
    .u ∉ writtenFlags mn ∧ .b ∉ writtenFlags mn := by
  cases mn <;> simp_all [writtenFlags]

theorem exec_statusBits {i : Instr} {s t : State} (h : exec i s = .next t)
    (hs : statusBitsFixed s.p = true) : statusBitsFixed t.p = true := by
  by_cases hi : i.mnemonic = .plp ∨ i.mnemonic = .rti
  · exact exec_restores_statusBits hi h
  · obtain ⟨hplp, hrti⟩ := not_or.mp hi
    obtain ⟨hu, hb⟩ := statusBits_not_written hplp hrti
    obtain ⟨_, w, _⟩ := exec_inTables h
    exact (statusBitsFixed_congr (w.flags _ hu) (w.flags _ hb)).trans hs

/-! ### Proceeds: what `Step()` keeps, the service of a request included -/

/-- What the fetch, the instruction and the NMI check all keep. -/
structure Proceeds (s t : State) : Prop where
  status : t.status = s.status
  booted : t.booted = s.booted
  params : t.params = s.params
  mounts : t.mounts = s.mounts
  cyc : s.cyc ≤ t.cyc
  wf : s.mem.wf = true → t.mem.wf = true
  bits : statusBitsFixed s.p = true → statusBitsFixed t.p = true

theorem Proceeds.refl (s : State) : Proceeds s s :=
  ⟨rfl, rfl, rfl, rfl, Nat.le_refl _, id, id⟩

theorem Proceeds.trans {s t u : State} (h : Proceeds s t) (k : Proceeds t u) : Proceeds s u where
  status := k.status.trans h.status
  booted := k.booted.trans h.booted
  params := k.params.trans h.params
  mounts := k.mounts.trans h.mounts
  cyc := Nat.le_trans h.cyc k.cyc
  wf e := k.wf (h.wf e)
  bits e := k.bits (h.bits e)

theorem EnvironmentKept.status_eq {s t : State} (h : EnvironmentKept s t) :
    t.status = s.status := h.1

theorem EnvironmentKept.booted_eq {s t : State} (h : EnvironmentKept s t) :
    t.booted = s.booted := by
  obtain ⟨_, hreset, hloaded, _⟩ := h
  unfold State.booted
  rw [hreset, hloaded]

theorem Ran.proceeds {s t : State} (h : Ran s t)
    (hp : statusBitsFixed s.p = true → statusBitsFixed t.p = true) : Proceeds s t :=
  ⟨h.env.status_eq, h.env.booted_eq, h.env.params_eq, h.env.mounts_eq, h.cyc, h.wf, hp⟩

/-- What changes RAM and the latch alone, and keeps RAM's form. -/
theorem Quiet.proceeds {s t : State} (q : Quiet s t) (hw : s.mem.wf = true → t.mem.wf = true) :
    Proceeds s t :=
  ⟨q.env.status_eq, q.env.booted_eq, q.env.params_eq, q.env.mounts_eq, q.cyc_eq.ge, hw,
    fun hp => (congrArg _ q.p_eq).trans hp⟩

theorem Proceeds.inv {s t : State} (h : Proceeds s t) (hs : s.Inv) : t.Inv := by
  obtain ⟨hwf, hmounts, hp, hflags, hstatus, hbooted⟩ := hs
  exact ⟨h.wf hwf, h.mounts ▸ hmounts, h.bits hp, h.params ▸ hflags, h.status.trans hstatus,
    h.booted.trans hbooted⟩

theorem memRead_proceeds {addr : Word} {v : Byte} {s t : State}
    (h : memRead addr s = .next (v, t)) : Proceeds s t :=
  (memRead_did h).1.proceeds (memRead_ran h).wf

theorem fetch_proceeds {i : Instr} {s t : State} (h : fetch s = .next (i, t)) : Proceeds s t := by
  obtain ⟨ran, hp, _⟩ := fetch_ran h
  exact ran.proceeds fun hs => (congrArg _ hp).trans hs

theorem exec_proceeds {i : Instr} {s t : State} (h : exec i s = .next t) : Proceeds s t := by
  obtain ⟨u, ran, rfl⟩ := exec_ran h
  exact (ran.trans (ran_charge _ u)).proceeds (exec_statusBits h)

/-- The service of a request reads, enters the handler, and charges (R282). -/
theorem serviceNmi_proceeds {s t : State} (h : serviceNmi s = .next t) : Proceeds s t := by
  obtain ⟨⟨_, s1⟩, h1, h2⟩ := andThen_eq_next.mp h
  obtain ⟨⟨_, s2⟩, h3, h4⟩ := andThen_eq_next.mp h2
  obtain ⟨s3, h5, ⟨⟩⟩ := andThen_eq_next.mp h4
  have entry : Proceeds s2 s3 :=
    (trapEntry_ran h5).proceeds fun hp => (trapEntry_statusBits h5).trans hp
  have done : Proceeds s3 (endService s3) :=
    ⟨rfl, rfl, rfl, rfl, Nat.le_add_right _ _, id, id⟩
  exact (memRead_proceeds h1).trans ((memRead_proceeds h3).trans (entry.trans done))

theorem chooseDefer_proceeds (s : State) : Proceeds s (chooseDefer s).2 := by
  unfold chooseDefer
  split <;> exact ⟨rfl, rfl, rfl, rfl, Nat.le_refl _, id, id⟩

/-- The check leaves the state, services the request, or draws a choice first, under either reading
of the latency (R281, R284). -/
theorem nmiCheck_proceeds {s t : State} (h : nmiCheck s = .next t) : Proceeds s t := by
  unfold nmiCheck at h
  split at h
  · split at h
    · exact serviceNmi_proceeds h
    · cases h; exact Proceeds.refl s
  · unfold nmiCheckFirstOrSecond at h
    split at h
    · split at h
      · exact serviceNmi_proceeds h
      · have chosen := chooseDefer_proceeds s
        dsimp only at h
        split at h
        · cases h
          exact chosen.trans ⟨rfl, rfl, rfl, rfl, Nat.le_refl _, id, id⟩
        · exact chosen.trans (serviceNmi_proceeds h)
    · cases h; exact Proceeds.refl s

/-- A step is the host's calls, and then what proceeds. -/
theorem step_proceeds {s t : State} (h : step s = .next t) :
    ∃ s0, boundary s = .next s0 ∧ Proceeds s0 t := by
  obtain ⟨_, s0, i, s1, s2, hb, _, hf, he, hn⟩ := step_parts h
  exact ⟨s0, hb, (fetch_proceeds hf).trans ((exec_proceeds he).trans (nmiCheck_proceeds hn))⟩

/-! ### The host's calls -/

theorem mountsWf_append {ms : List Mount} {m : Mount} (hm : m.wf = true)
    (h : mountsWf ms = true) (hd : ms.all (fun m' => m'.disjointFrom m) = true) :
    mountsWf (ms ++ [m]) = true := by
  induction ms with
  | nil => simp [mountsWf, hm]
  | cons m' ms ih =>
    simp only [mountsWf, List.all_cons, List.cons_append, List.all_append, List.all_nil,
      Bool.and_eq_true, Bool.and_true] at h hd ⊢
    obtain ⟨⟨hm', hall⟩, hms⟩ := h
    obtain ⟨hd', hds⟩ := hd
    exact ⟨⟨hm', hall, hd'⟩, ih hms hds⟩

theorem addMount_inv {m : Mount} {s : State} (hs : s.Inv) : (addMount m s).Inv := by
  obtain ⟨hwf, hmounts, rest⟩ := hs
  unfold addMount
  split
  · next hc =>
    obtain ⟨hm, hd⟩ := Bool.and_eq_true_iff.mp hc
    exact ⟨hwf, mountsWf_append hm hmounts hd, rest⟩
  · exact ⟨hwf, hmounts, rest⟩

theorem resetCore_inv {s : State} (hs : s.Inv) : (resetCore s).Inv := by
  obtain ⟨hwf, hmounts, _, hflags, hstatus, hbooted⟩ := hs
  have hloaded : s.pcLoaded = true := (Bool.and_eq_true_iff.mp hbooted).2
  unfold resetCore
  dsimp only
  split <;> exact ⟨hwf, hmounts, hflags, hflags, hstatus, hloaded⟩

theorem loadPc_inv {target : Word} {s : State} (hs : s.Inv) : (loadPc target s).Inv := by
  obtain ⟨hwf, hmounts, hp, hflags, hstatus, hbooted⟩ := hs
  have hreset : s.resetDone = true := (Bool.and_eq_true_iff.mp hbooted).1
  exact ⟨hwf, hmounts, hp, hflags, hstatus, Bool.and_eq_true_iff.mpr ⟨hreset, rfl⟩⟩

theorem loadVector_proceeds {vec : Word} {s t : State} (h : loadVector vec s = .next t) :
    Proceeds s t := by
  obtain ⟨_, _, q, _⟩ := loadVector_did h
  exact (loadVector_ran h).proceeds fun hp => (congrArg _ q.p_eq).trans hp

/-- Boot() is a reset, a load of the reset vector, and a load of PC (R301). -/
theorem boot_parts {s t : State} (h : boot s = .next t) :
    ∃ u, loadVector resetVector (resetCore s) = .next u ∧ t = u.setPcLoaded true := by
  unfold boot at h
  split at h
  · cases h
  · obtain ⟨u, h1, ⟨⟩⟩ := andThen_eq_next.mp h
    exact ⟨u, h1, rfl⟩

theorem hostCall_inv {c : HostCall} {s t : State} (h : hostCall c s = .next t) (hs : s.Inv) :
    t.Inv := by
  cases c with
  | event e =>
    cases h
    obtain ⟨q, hmem, _⟩ := applyEvent_quiet e s
    exact (q.proceeds fun hw => hmem ▸ hw).inv hs
  | change c => cases h; exact ((applyChange_quiet c s).1.proceeds applyChange_wf).inv hs
  | reset => cases h; exact resetCore_inv hs
  | boot =>
    obtain ⟨u, hu, rfl⟩ := boot_parts h
    exact loadPc_inv (target := u.pc) ((loadVector_proceeds hu).inv (resetCore_inv hs))
  | loadPc target => cases h; exact loadPc_inv hs
  | mount m => cases h; exact addMount_inv hs

/-- The host can change no parameter and remove no mount. -/
structure KeepsPlatform (s t : State) : Prop where
  params : t.params = s.params
  mounts : s.mounts <+: t.mounts

theorem KeepsPlatform.trans {s t u : State} (h : KeepsPlatform s t) (k : KeepsPlatform t u) :
    KeepsPlatform s u :=
  ⟨k.params.trans h.params, h.mounts.trans k.mounts⟩

theorem KeepsPlatform.of_eq {s t : State} (hp : t.params = s.params) (hm : t.mounts = s.mounts) :
    KeepsPlatform s t :=
  ⟨hp, hm ▸ List.prefix_refl _⟩

theorem resetCore_keepsPlatform (s : State) : KeepsPlatform s (resetCore s) := by
  unfold resetCore
  dsimp only
  split <;> exact .of_eq rfl rfl

theorem addMount_keepsPlatform (m : Mount) (s : State) : KeepsPlatform s (addMount m s) := by
  unfold addMount
  split
  · exact ⟨rfl, List.prefix_append _ _⟩
  · exact .of_eq rfl rfl

theorem hostCall_keepsPlatform {c : HostCall} {s t : State} (h : hostCall c s = .next t) :
    KeepsPlatform s t := by
  cases c with
  | event e =>
    cases h
    have env := (applyEvent_quiet e s).1.env
    exact .of_eq env.params_eq env.mounts_eq
  | change c =>
    cases h
    have env := (applyChange_quiet c s).1.env
    exact .of_eq env.params_eq env.mounts_eq
  | reset => cases h; exact resetCore_keepsPlatform s
  | boot =>
    obtain ⟨u, hu, rfl⟩ := boot_parts h
    have loaded := loadVector_proceeds hu
    exact (resetCore_keepsPlatform s).trans (.of_eq loaded.params loaded.mounts)
  | loadPc target => cases h; exact .of_eq rfl rfl
  | mount m => cases h; exact addMount_keepsPlatform m s

/-- What every host call keeps, a boundary keeps: an induction over the calls. -/
theorem boundary_induction {R : State → State → Prop} (hrefl : ∀ s, R s s)
    (htrans : ∀ {s t u}, R s t → R t u → R s u) (hqueue : ∀ s rest, R s (s.setCalls rest))
    (hcall : ∀ {c s t}, hostCall c s = .next t → R s t) {s t : State}
    (h : boundary s = .next t) : R s t := by
  have calls : ∀ (cs : List HostCall) {s t}, hostCalls cs s = .next t → R s t := by
    intro cs
    induction cs with
    | nil => intro s t h; cases h; exact hrefl s
    | cons c cs ih =>
      intro s t h
      obtain ⟨s1, h1, h2⟩ := andThen_eq_next.mp h
      exact htrans (hcall h1) (ih h2)
  unfold boundary at h
  split at h
  · cases h; exact hrefl s
  · exact htrans (hqueue s _) (calls _ h)

theorem boundary_inv {s t : State} (h : boundary s = .next t) : s.Inv → t.Inv :=
  boundary_induction (R := fun s t => s.Inv → t.Inv) (fun _ => id) (fun h k hs => k (h hs))
    (fun _ _ hs => hs) hostCall_inv h

theorem boundary_keepsPlatform {s t : State} (h : boundary s = .next t) : KeepsPlatform s t :=
  boundary_induction (R := KeepsPlatform) (fun _ => .of_eq rfl rfl) KeepsPlatform.trans
    (fun _ _ => .of_eq rfl rfl) hostCall_keepsPlatform h

/-! ### The obligations -/

/-- Settles O11: the host's calls keep the invariant, and so does what proceeds from them. -/
theorem stepKeepsInvariant : Obligations.StepKeepsInvariant := by
  unfold Obligations.StepKeepsInvariant
  intro s t hs h
  obtain ⟨s0, hb, proceeds⟩ := step_proceeds h
  exact proceeds.inv (boundary_inv hb hs)

/-- Settles O12: mounts and parameters since the state before the step, `cyc` since the boundary. -/
theorem stepIsMonotone : Obligations.StepIsMonotone := by
  unfold Obligations.StepIsMonotone
  intro s t h
  obtain ⟨s0, hb, proceeds⟩ := step_proceeds h
  obtain ⟨hparams, added, hadded⟩ := boundary_keepsPlatform hb
  refine ⟨proceeds.params.trans hparams, ⟨added, proceeds.mounts.trans hadded.symm⟩, ?_⟩
  intro s0' hb'
  cases hb.symm.trans hb'
  exact proceeds.cyc

/-- Settles O10, conjunct by conjunct; RAM with nothing listed is in canonical form. -/
theorem resetMeetsInvariant : Obligations.ResetMeetsInvariant := by
  unfold Obligations.ResetMeetsInvariant
  exact ⟨reset_mem_wf, by decide, by decide, by decide, rfl, rfl⟩

end Sys2Proof.Machine
end

section
/-! PROOFS. The stack as a last-in first-out store (R27): O26. And the state after reset as what
Boot() makes of a machine just powered on (R33, R301): O56. -/

namespace Sys2Proof.Machine

/-- Pulling one byte more: after the others. -/
theorem pullMany_succ {n : Nat} {s t u : State} {vs : List Byte} {v : Byte}
    (h : pullMany n s = .next (vs, t)) (k : pull8 t = .next (v, u)) :
    pullMany (n + 1) s = .next (vs ++ [v], u) := by
  induction n generalizing s vs with
  | zero =>
    cases h
    simp only [pullMany, k, andThen_next, List.nil_append]
  | succ n ih =>
    obtain ⟨⟨w, s1⟩, h1, h2⟩ := andThen_eq_next.mp h
    obtain ⟨⟨ws, s2⟩, h3, ⟨⟩⟩ := andThen_eq_next.mp h2
    unfold pullMany
    simp only [h1, andThen_next, ih h3, List.cons_append]

/-- From `s` to `t` the stack was used and is level again: no register changed, and nothing was
stored but in the `n` stack addresses from SP down. -/
def LevelAgain (n : Nat) (s t : State) : Prop :=
  Quiet s t ∧ ∃ ops l, Did ops l s t ∧
    ∀ e ∈ l, ∃ k < n, e = stackAddr s (s.sp - BitVec.ofNat 8 k)

/-- The stack page stays plain RAM that the coming turns leave alone. -/
theorem Did.stackInRam {ops : List BusOp} {l : List Word} {s t : State} (d : Did ops l s t)
    (h : StackInRam s) : StackInRam t := by
  unfold StackInRam
  simp only [d.stackAddr_eq, d.cellOf_eq]
  exact h

/-- At most 255 bytes pushed below a stack address do not reach it again. -/
theorem LevelAgain.keeps_above {n : Nat} {s t : State} {sp : Byte} (h : LevelAgain n s t)
    (hram : StackInRam s) (hleave : ChipsLeave s (stackAddr s sp)) (hsp : s.sp = sp - 1)
    (hn : n < 256) : ramByte t (stackAddr s sp) = ramByte s (stackAddr s sp) := by
  obtain ⟨_, _, l, d, hl⟩ := h
  refine d.stored _ (fun e he hcell => ?_) hleave
  obtain ⟨k, hk, rfl⟩ := hl e he
  have same : sp = s.sp - BitVec.ofNat 8 k := hram.2 _ _ hcell
  rw [hsp] at same
  bv_omega

/-- Pushing bytes and pulling as many answers them in reverse and levels the stack: the first byte
pushed is the last one pulled, and the pushes and pulls between leave its cell. -/
theorem pushAll_pullMany {vs : List Byte} {s : State} (hwf : s.mem.wf = true)
    (hram : StackInRam s) (hleave : ∀ sp, ChipsLeave s (stackAddr s sp))
    (hlen : vs.length ≤ 256) :
    ∃ s1 s2, pushAll vs s = .next s1 ∧ pullMany vs.length s1 = .next (vs.reverse, s2) ∧
      LevelAgain vs.length s s2 := by
  induction vs generalizing s with
  | nil => exact ⟨s, s, rfl, rfl, Quiet.refl s, [], [], Did.refl s, by simp⟩
  | cons v vs ih =>
    have hlen' : vs.length < 256 := hlen
    obtain ⟨s0, hpush⟩ := push8_mapped (mapped_of_cell (hram.1 s.sp)) v
    obtain ⟨q0, d0, pushed⟩ := push8_did hpush
    have hsp0 : s0.sp = s.sp - 1 := q0.sp_eq
    have hleave0 : ∀ sp, ChipsLeave s0 (stackAddr s0 sp) := fun sp => by
      rw [d0.stackAddr_eq]; exact d0.chipsLeave (hleave sp)
    obtain ⟨s1, s2, hpushes, hpulls, level⟩ :=
      ih (d0.wf hwf) (d0.stackInRam hram) hleave0 hlen'.le
    have hpushed : ramByte s0 (stackAddr s0 s.sp) = some v := by
      rw [d0.stackAddr_eq]; exact pushed hwf (hram.1 _) _ rfl (hleave _)
    have hkept : ramByte s2 (stackAddr s0 s.sp) = some v :=
      (level.keeps_above (d0.stackInRam hram) (hleave0 _) hsp0 hlen').trans hpushed
    obtain ⟨q, ops, l, d, hl⟩ := level
    have hsp2 : s2.sp + 1 = s.sp := by
      have : s2.sp = s0.sp := q.sp_eq
      rw [this, hsp0]; bv_omega
    obtain ⟨w, s3, hpull⟩ : ∃ w s3, pull8 s2 = .next (w, s3) := by
      refine pull8_mapped ?_
      rw [hsp2, d.stackAddr_eq]
      exact mapped_of_cell (cell_of_ramByte hkept)
    obtain ⟨q3, d3, pulled⟩ := pull8_did hpull
    obtain rfl : w = v := by
      refine pulled v ?_
      rw [hsp2, d.stackAddr_eq]; exact hkept
    refine ⟨s1, s3, ?_, ?_, ?_, _, _, (d0.trans d).trans d3, fun e he => ?_⟩
    · simp only [pushAll, hpush, andThen_next, hpushes]
    · rw [List.length_cons, List.reverse_cons]; exact pullMany_succ hpulls hpull
    · exact ⟨q3.a_eq.trans (q.a_eq.trans q0.a_eq), q3.x_eq.trans (q.x_eq.trans q0.x_eq),
        q3.y_eq.trans (q.y_eq.trans q0.y_eq), q3.sp_eq.trans hsp2,
        q3.p_eq.trans (q.p_eq.trans q0.p_eq), q3.pc_eq.trans (q.pc_eq.trans q0.pc_eq),
        q3.cyc_eq.trans (q.cyc_eq.trans q0.cyc_eq), ((d0.trans d).trans d3).env⟩
    · simp only [List.nil_append, List.mem_append, List.mem_singleton] at he
      rcases he with he | rfl
      · obtain ⟨k, hk, rfl⟩ := hl e he
        refine ⟨k + 1, by simpa using hk, ?_⟩
        rw [d0.stackAddr_eq, hsp0]
        congr 1
        bv_omega
      · exact ⟨0, by simp, by simp⟩

/-- Settles O26: what levels the stack has SP, PC and P as before. -/
theorem stackIsLastInFirstOut : Obligations.StackIsLastInFirstOut := by
  unfold Obligations.StackIsLastInFirstOut
  intro s vs hwf hram hleave hlen
  obtain ⟨s1, s2, hpushes, hpulls, q, _⟩ := pushAll_pullMany hwf hram hleave hlen
  exact ⟨s1, s2, hpushes, hpulls, q.sp_eq, q.pc_eq, q.p_eq⟩

/-! ### The state after reset -/

/-- In whole RAM with nothing listed, and no answers queued, a read answers 00 and is recorded. -/
theorem memRead_bareRam {s : State} (hmounts : s.mounts = [wholeRam]) (hmem : s.mem = [])
    (hturns : s.turns = []) (addr : Word) :
    memRead addr s = .next (0x00, s.setTrace (.rd addr :: s.trace)) := by
  have hcovers : mountCovers wholeRam addr = true := by
    simp only [mountCovers, wholeRam, Bool.and_eq_true, decide_eq_true_eq, BitVec.le_def]
    exact ⟨Nat.zero_le _, Nat.le_of_lt_succ addr.isLt⟩
  have hmount : mountAt s addr = some wholeRam := by
    simp [mountAt, findMount, hmounts, hcovers]
  have hbyte : mountByte wholeRam addr s = 0x00 := by
    simp only [mountByte, wholeRam, hmem]
    rfl
  have hdraw : drawForRead wholeRam s = s := by simp [drawForRead, wholeRam]
  simp only [memRead, hmount, hbyte, hdraw, completeTransaction, deliverTurn,
    State.setTrace_turns, hturns]

theorem loadVector_bareRam {s : State} (hmounts : s.mounts = [wholeRam]) (hmem : s.mem = [])
    (hturns : s.turns = []) (vec : Word) :
    loadVector vec s =
      .next ((s.setTrace (.rd (vec + 1) :: .rd vec :: s.trace)).setPc 0x0000) := by
  have second := memRead_bareRam (s := s.setTrace (.rd vec :: s.trace)) hmounts hmem hturns (vec + 1)
  simp only [loadVector, memRead_bareRam hmounts hmem hturns, second, andThen_next]
  rfl

/-- Settles O56: the reset sets every register, and both bytes of the vector read 00. -/
theorem resetStateIsBootOfPowerOn : Obligations.ResetStateIsBootOfPowerOn := by
  unfold Obligations.ResetStateIsBootOfPowerOn
  intro a x y sp p pc cyc stamp
  have booting : ∀ s : State, s.status = .running → boot s =
      andThen (loadVector resetVector (resetCore s)) fun s1 => .next (s1.setPcLoaded true) := by
    intro s hs
    unfold boot
    rw [hs]
  rw [booting _ rfl, loadVector_bareRam rfl rfl rfl]
  rfl

end Sys2Proof.Machine
end

section
/-! PROOFS. Two runs from states that an instruction cannot tell apart: the shared operations and the
shapes of instruction, for any relation of states that the bus respects. -/

namespace Sys2Proof.Machine

/-! ### Outcomes that correspond -/

/-- Two outcomes of the same kind: the values related by `R`, the states that a fault or a refusal
reports by `E`. -/
inductive Alike (E : State → State → Prop) {α : Type} (R : α → α → Prop) : Out α → Out α → Prop
  | next {a b : α} (h : R a b) : Alike E R (.next a) (.next b)
  | fault {s t : State} (addr : Word) (h : E s t) :
      Alike E R (.fault (.busFault addr s)) (.fault (.busFault addr t))
  | refused {s t : State} (op : Byte) (h : E s t) :
      Alike E R (.refused (.unnamedUndocumented op s)) (.refused (.unnamedUndocumented op t))

/-- The same value in related states. -/
def SameValue (E : State → State → Prop) {β : Type} (p q : β × State) : Prop :=
  p.1 = q.1 ∧ E p.2 q.2

theorem Alike.andThen {E : State → State → Prop} {α β : Type} {R : α → α → Prop}
    {S : β → β → Prop} {o o' : Out α} {f g : α → Out β} (h : Alike E R o o')
    (k : ∀ a b, R a b → Alike E S (f a) (g b)) :
    Alike E S (Machine.andThen o f) (Machine.andThen o' g) := by
  cases h with
  | next h => exact k _ _ h
  | fault addr h => exact .fault addr h
  | refused op h => exact .refused op h

/-- Sequencing after operations that answer a value with a state. -/
theorem Alike.bind {E : State → State → Prop} {α β : Type} {S : β → β → Prop}
    {o o' : Out (α × State)} {f g : α × State → Out β} (h : Alike E (SameValue E) o o')
    (k : ∀ v s t, E s t → Alike E S (f (v, s)) (g (v, t))) :
    Alike E S (Machine.andThen o f) (Machine.andThen o' g) := by
  refine h.andThen ?_
  rintro ⟨v, s⟩ ⟨w, t⟩ ⟨hv, hE⟩
  obtain rfl : v = w := hv
  exact k v s t hE

/-- Outcomes whose states `f` maps to the same state agree up to `f`. -/
theorem Alike.mapOutcome_eq {E : State → State → Prop} {o o' : Out State} {f : State → State}
    (h : Alike E E o o') (hf : ∀ s t, E s t → f s = f t) : mapOutcome f o = mapOutcome f o' := by
  cases h with
  | next h => simp only [mapOutcome, hf _ _ h]
  | fault addr h => simp only [mapOutcome, hf _ _ h]
  | refused op h => simp only [mapOutcome, hf _ _ h]

/-! ### Relations the bus respects -/

/-- Related states have the same SP, X, Y, PC and parameters, every transaction answers the same in
both, and charges and loads of SP and PC lead to related states again. -/
structure BusRespects (E : State → State → Prop) : Prop where
  x : ∀ {s t}, E s t → s.x = t.x
  y : ∀ {s t}, E s t → s.y = t.y
  sp : ∀ {s t}, E s t → s.sp = t.sp
  pc : ∀ {s t}, E s t → s.pc = t.pc
  params : ∀ {s t}, E s t → s.params = t.params
  charge : ∀ {s t} n, E s t → E (charge n s) (charge n t)
  setSp : ∀ {s t} v, E s t → E (s.setSp v) (t.setSp v)
  setPc : ∀ {s t} v, E s t → E (s.setPc v) (t.setPc v)
  memRead : ∀ {s t} addr, E s t → Alike E (SameValue E) (memRead addr s) (memRead addr t)
  memWrite : ∀ {s t} addr v, E s t → Alike E E (memWrite addr v s) (memWrite addr v t)

section
variable {E : State → State → Prop} (hE : BusRespects E) {s t : State}
include hE

theorem BusRespects.stackAddr (h : E s t) (sp : Byte) : stackAddr s sp = stackAddr t sp := by
  unfold Machine.stackAddr; rw [hE.params h]

theorem BusRespects.chargeBase (h : E s t) (op : Byte) :
    E (chargeBase op s) (chargeBase op t) := by
  unfold Machine.chargeBase; rw [hE.params h]; exact hE.charge _ h

/-! The stack and the vectors. -/

theorem BusRespects.push8 (h : E s t) (v : Byte) : Alike E E (push8 v s) (push8 v t) := by
  unfold Machine.push8
  rw [hE.sp h, hE.stackAddr h]
  refine (hE.memWrite _ _ h).andThen fun s1 t1 h1 => ?_
  rw [hE.sp h1]
  exact .next (hE.setSp _ h1)

theorem BusRespects.pull8 (h : E s t) : Alike E (SameValue E) (pull8 s) (pull8 t) := by
  unfold Machine.pull8
  rw [hE.sp h]
  simp only [State.setSp_sp, hE.stackAddr (hE.setSp (t.sp + 1) h)]
  exact hE.memRead _ (hE.setSp _ h)

theorem BusRespects.push16 (h : E s t) (v : Word) : Alike E E (push16 v s) (push16 v t) :=
  (hE.push8 h _).andThen fun _ _ h1 => hE.push8 h1 _

theorem BusRespects.pull16 (h : E s t) : Alike E (SameValue E) (pull16 s) (pull16 t) :=
  (hE.pull8 h).bind fun _ _ _ h1 => (hE.pull8 h1).bind fun _ _ _ h2 => .next ⟨rfl, h2⟩

theorem BusRespects.loadVector (h : E s t) (vec : Word) :
    Alike E E (loadVector vec s) (loadVector vec t) :=
  (hE.memRead _ h).bind fun _ _ _ h1 => (hE.memRead _ h1).bind fun _ _ _ h2 =>
    .next (hE.setPc _ h2)

/-! Resolving and reading an operand. -/

theorem BusRespects.zeroPagePointer (h : E s t) (z : Byte) :
    Alike E (SameValue E) (zeroPagePointer z s) (zeroPagePointer z t) :=
  (hE.memRead _ h).bind fun _ _ _ h1 => (hE.memRead _ h1).bind fun _ _ _ h2 => .next ⟨rfl, h2⟩

theorem BusRespects.indexed (h : E s t) (base : Word) (index : Byte) :
    SameValue E (indexed base index s) (indexed base index t) :=
  ⟨rfl, hE.charge _ h⟩

theorem BusRespects.resolve (h : E s t) (m : AddrMode) :
    Alike E (SameValue E) (resolve m s) (resolve m t) := by
  cases m with simp only [Machine.resolve]
  | zp z => exact .next ⟨rfl, h⟩
  | zpx z => rw [hE.x h]; exact .next ⟨rfl, hE.charge 1 h⟩
  | zpy z => rw [hE.y h]; exact .next ⟨rfl, hE.charge 1 h⟩
  | abs addr => exact .next ⟨rfl, h⟩
  | abx base => rw [hE.x h]; exact .next (hE.indexed h base _)
  | aby base => rw [hE.y h]; exact .next (hE.indexed h base _)
  | ind ptr =>
    exact (hE.memRead _ h).bind fun _ _ _ h1 => (hE.memRead _ h1).bind fun _ _ _ h2 =>
      .next ⟨rfl, h2⟩
  | izx z =>
    rw [hE.x h]
    exact (hE.zeroPagePointer h _).bind fun _ _ _ h1 => .next ⟨rfl, hE.charge 1 h1⟩
  | izy z =>
    refine (hE.zeroPagePointer h z).bind fun base s1 t1 h1 => ?_
    simp only [hE.y h1]
    exact .next (hE.indexed h1 base _)
  | rel off => rw [hE.pc h]; exact .next ⟨rfl, h⟩

theorem BusRespects.readSource (h : E s t) (src : Source) :
    Alike E (SameValue E) (readSource src s) (readSource src t) := by
  cases src with
  | imm b => exact .next ⟨rfl, h⟩
  | mem m => exact (hE.resolve h m).bind fun _ _ _ h1 => hE.memRead _ h1

/-! The shapes of instruction, given what their handlers respect. -/

theorem BusRespects.readOp (h : E s t) (op : Byte) (src : Source) {f : Byte → State → State}
    (hf : ∀ v s t, E s t → E (f v s) (f v t)) : Alike E E (readOp op src f s) (readOp op src f t) :=
  (hE.readSource h src).bind fun v _ _ h1 => .next (hE.chargeBase (hf v _ _ h1) op)

theorem BusRespects.admittedOp (h : E s t) (op : Byte) (src : Source) {f : Byte → State → State}
    (hf : ∀ v s t, E s t → E (f v s) (f v t)) :
    Alike E E (admittedOp op src f s) (admittedOp op src f t) := by
  unfold Machine.admittedOp
  rw [hE.params h]
  split
  · exact hE.readOp h op src hf
  · exact .refused op h

theorem BusRespects.storeOp (h : E s t) (op : Byte) (m : AddrMode) {value : State → Byte}
    (hv : ∀ s t, E s t → value s = value t) :
    Alike E E (storeOp op m value s) (storeOp op m value t) := by
  refine (hE.resolve h m).bind fun ea s1 t1 h1 => ?_
  simp only [hv s1 t1 h1]
  exact (hE.memWrite ea _ h1).andThen fun _ _ h2 => .next (hE.chargeBase h2 op)

theorem BusRespects.modifyAt_mem (h : E s t) (ea : Word) {result : Byte → State → Byte}
    {flags : Byte → Byte → State → State} (hr : ∀ v s t, E s t → result v s = result v t)
    (hf : ∀ v w s t, E s t → E (flags v w s) (flags v w t)) :
    Alike E E (modifyAt (.mem ea) result flags s) (modifyAt (.mem ea) result flags t) := by
  refine (hE.memRead ea h).bind fun v s1 t1 h1 => ?_
  simp only [hr v s1 t1 h1]
  exact (hE.memWrite ea _ h1).andThen fun _ _ h2 => .next (hf v _ _ _ h2)

/-- A read-modify-write, its accumulator form given separately. -/
theorem BusRespects.modifyOp (h : E s t) (op : Byte) (d : Dest) {result : Byte → State → Byte}
    {flags : Byte → Byte → State → State} (hr : ∀ v s t, E s t → result v s = result v t)
    (hf : ∀ v w s t, E s t → E (flags v w s) (flags v w t))
    (hacc : ∀ s t, E s t → s.a = t.a ∧ ∀ v, E (s.setA v) (t.setA v)) :
    Alike E E (modifyOp op d result flags s) (modifyOp op d result flags t) := by
  cases d with
  | acc =>
    obtain ⟨ha, hset⟩ := hacc s t h
    refine .next (hE.chargeBase ?_ op)
    rw [ha, hr t.a s t h]
    exact hf _ _ _ _ (hset _)
  | mem m =>
    unfold Machine.modifyOp resolveDest
    simp only [andThen_assoc, andThen_next]
    exact (hE.resolve h m).bind fun ea _ _ h1 => (hE.modifyAt_mem h1 ea hr hf).andThen
      fun _ _ h2 => .next (hE.chargeBase h2 op)

theorem BusRespects.combinedOp (h : E s t) (op : Byte) (m : AddrMode)
    {result : Byte → State → Byte} {flags : Byte → Byte → State → State}
    {f : Byte → State → State} (hr : ∀ v s t, E s t → result v s = result v t)
    (hf : ∀ v w s t, E s t → E (flags v w s) (flags v w t))
    (hh : ∀ v s t, E s t → E (f v s) (f v t)) :
    Alike E E (combinedOp op m result flags f s) (combinedOp op m result flags f t) :=
  (hE.resolve h m).bind fun ea _ _ h1 => (hE.modifyAt_mem h1 ea hr hf).andThen fun _ _ h2 =>
    (hE.memRead ea h2).bind fun v _ _ h3 => .next (hE.chargeBase (hh v _ _ h3) op)

theorem BusRespects.twoReadsOp (h : E s t) (op : Byte) (m : AddrMode) {f g : Byte → State → State}
    (hf : ∀ v s t, E s t → E (f v s) (f v t)) (hg : ∀ v s t, E s t → E (g v s) (g v t)) :
    Alike E E (twoReadsOp op m f g s) (twoReadsOp op m f g t) :=
  (hE.resolve h m).bind fun ea _ _ h1 => (hE.memRead ea h1).bind fun v _ _ h2 =>
    (hE.memRead ea (hf v _ _ h2)).bind fun w _ _ h3 => .next (hE.chargeBase (hg w _ _ h3) op)

theorem BusRespects.addressOp (h : E s t) (op : Byte) (m : AddrMode) {f : Word → State → Out State}
    (hf : ∀ ea s t, E s t → Alike E E (f ea s) (f ea t)) :
    Alike E E (addressOp op m f s) (addressOp op m f t) :=
  (hE.resolve h m).bind fun ea _ _ h1 => (hf ea _ _ h1).andThen fun _ _ h2 =>
    .next (hE.chargeBase h2 op)

theorem BusRespects.systemOp (h : E s t) (op : Byte) {f : State → Out State}
    (hf : ∀ s t, E s t → Alike E E (f s) (f t)) : Alike E E (systemOp op f s) (systemOp op f t) :=
  (hf s t h).andThen fun _ _ h1 => .next (hE.chargeBase h1 op)

theorem BusRespects.jumpSubroutine (h : E s t) (ea : Word) :
    Alike E E (jumpSubroutine ea s) (jumpSubroutine ea t) := by
  unfold Machine.jumpSubroutine
  rw [hE.pc h]
  exact (hE.push16 h _).andThen fun _ _ h1 => .next (hE.setPc ea h1)

theorem BusRespects.returnFromSubroutine (h : E s t) :
    Alike E E (returnFromSubroutine s) (returnFromSubroutine t) :=
  (hE.pull16 h).bind fun ret _ _ h1 => .next (hE.setPc (ret + 1) h1)

theorem BusRespects.branch (h : E s t) {f : Flag} (hf : flag f s = flag f t) (b : Bool)
    (target : Word) : Alike E E (branch f b target s) (branch f b target t) := by
  unfold Machine.branch branchExtra
  rw [hf, hE.pc h]
  split
  · exact .next (hE.setPc _ (hE.charge _ h))
  · exact .next h

end

end Sys2Proof.Machine
end

section
/-! PROOFS. No instruction's result depends on the cycle counter (R30, R88): O16. -/

namespace Sys2Proof.Machine

/-! ### The same state at another time -/

/-- A state with another count of cycles and another stamp of the latch. -/
def State.atTime (s : State) (c r : Nat) : State := (s.setCyc c).setNmi { s.nmi with raisedAt := r }

/-- Two states that differ in `cyc` and the latch's stamp at most. -/
def SameButTime (s t : State) : Prop := ∃ c r, t = s.atTime c r

theorem SameButTime.timeless_eq {s t : State} (h : SameButTime s t) : timeless s = timeless t := by
  obtain ⟨c, r, rfl⟩ := h; rfl

theorem sameButTime_setCyc (s : State) (c : Nat) : SameButTime s (s.setCyc c) :=
  ⟨c, s.nmi.raisedAt, rfl⟩

/-- What does the same at any time. -/
theorem SameButTime.map {s t : State} (h : SameButTime s t) {f : State → State}
    (hf : ∀ s c r, f (s.atTime c r) = (f s).atTime c r) : SameButTime (f s) (f t) := by
  obtain ⟨c, r, rfl⟩ := h; exact ⟨c, r, hf s c r⟩

/-! ### Transactions -/

/-- An event may stamp the latch with now, and does nothing else that depends on it. -/
theorem SameButTime.applyEvent {s t : State} (h : SameButTime s t) (e : Event) :
    SameButTime (applyEvent e s) (applyEvent e t) := by
  obtain ⟨c, r, rfl⟩ := h
  cases e with
  | cancel => exact ⟨c, r, rfl⟩
  | interrupt =>
    have hpending : (s.atTime c r).nmi.pending = s.nmi.pending := rfl
    have hparams : (s.atTime c r).params = s.params := rfl
    simp only [Machine.applyEvent, interruptNmi, hpending, hparams]
    by_cases pending : s.nmi.pending = true
    · rw [if_pos pending, if_pos pending]
      cases s.params.nmiReraise with
      | keep => exact ⟨c, r, rfl⟩
      | overwrite => exact ⟨c, c, rfl⟩
    · rw [if_neg pending, if_neg pending]
      exact ⟨c, c, rfl⟩

theorem SameButTime.applyEvents {s t : State} (h : SameButTime s t) (es : List Event) :
    SameButTime (applyEvents es s) (applyEvents es t) := by
  induction es generalizing s t with
  | nil => exact h
  | cons e es ih => exact ih (h.applyEvent e)

theorem applyChange_atTime (c : CellChange) (s : State) (n r : Nat) :
    applyChange c (s.atTime n r) = (applyChange c s).atTime n r := by
  unfold applyChange
  rw [cellOf_congr (s := s) (t := s.atTime n r) rfl]
  split <;> rfl

theorem SameButTime.applyChanges {s t : State} (h : SameButTime s t) (cs : List CellChange) :
    SameButTime (applyChanges cs s) (applyChanges cs t) := by
  induction cs generalizing s t with
  | nil => exact h
  | cons c cs ih => exact ih (h.map (applyChange_atTime c))

theorem SameButTime.turns_eq {s t : State} (h : SameButTime s t) : s.turns = t.turns := by
  obtain ⟨c, r, rfl⟩ := h; rfl

theorem SameButTime.completeTransaction {s t : State} (h : SameButTime s t) (op : BusOp) :
    SameButTime (completeTransaction op s) (completeTransaction op t) := by
  have recorded : SameButTime (s.setTrace (op :: s.trace)) (t.setTrace (op :: t.trace)) :=
    h.map (f := fun s => s.setTrace (op :: s.trace)) fun _ _ _ => rfl
  unfold Machine.completeTransaction deliverTurn
  rw [recorded.turns_eq]
  split
  · exact recorded
  · next turn ts _ =>
    have taken := recorded.map (f := (State.setTurns · ts)) fun _ _ _ => rfl
    exact (taken.applyChanges turn.changes).applyEvents turn.events

theorem SameButTime.mountAt_eq {s t : State} (h : SameButTime s t) (addr : Word) :
    mountAt s addr = mountAt t addr := by
  obtain ⟨c, r, rfl⟩ := h; rfl

theorem SameButTime.mountByte_eq {s t : State} (h : SameButTime s t) (m : Mount) (addr : Word) :
    mountByte m addr s = mountByte m addr t := by
  obtain ⟨c, r, rfl⟩ := h; rfl

theorem SameButTime.drawForRead {s t : State} (h : SameButTime s t) (m : Mount) :
    SameButTime (drawForRead m s) (drawForRead m t) := by
  unfold Machine.drawForRead
  rw [h.turns_eq]
  split
  · exact h.map fun _ _ _ => rfl
  · exact h

theorem SameButTime.mountStore {s t : State} (h : SameButTime s t) (m : Mount) (addr : Word)
    (v : Byte) : SameButTime (mountStore m addr v s) (mountStore m addr v t) := by
  refine h.map fun s c r => ?_
  unfold Machine.mountStore
  split <;> rfl

theorem SameButTime.raiseBusFault {s t : State} (h : SameButTime s t) {α : Type}
    {R : α → α → Prop} (addr : Word) :
    Alike SameButTime R (raiseBusFault addr s) (raiseBusFault addr t) :=
  .fault addr (h.map (f := (State.setStatus · .faulted)) fun _ _ _ => rfl)

theorem SameButTime.memRead {s t : State} (h : SameButTime s t) (addr : Word) :
    Alike SameButTime (SameValue SameButTime) (memRead addr s) (memRead addr t) := by
  unfold Machine.memRead
  rw [h.mountAt_eq]
  split
  · exact h.raiseBusFault addr
  · next m _ =>
    exact .next ⟨h.mountByte_eq m addr, (h.drawForRead m).completeTransaction _⟩

theorem SameButTime.memWrite {s t : State} (h : SameButTime s t) (addr : Word) (v : Byte) :
    Alike SameButTime SameButTime (memWrite addr v s) (memWrite addr v t) := by
  unfold Machine.memWrite
  rw [h.mountAt_eq]
  split
  · exact h.raiseBusFault addr
  · next m _ => exact .next ((h.mountStore m addr v).completeTransaction _)

/-- The bus does not see the time. -/
theorem busRespects_sameButTime : BusRespects SameButTime where
  x h := by obtain ⟨c, r, rfl⟩ := h; rfl
  y h := by obtain ⟨c, r, rfl⟩ := h; rfl
  sp h := by obtain ⟨c, r, rfl⟩ := h; rfl
  pc h := by obtain ⟨c, r, rfl⟩ := h; rfl
  params h := by obtain ⟨c, r, rfl⟩ := h; rfl
  charge n h := by obtain ⟨c, r, rfl⟩ := h; exact ⟨c + n, r, rfl⟩
  setSp v h := h.map (f := (State.setSp · v)) fun _ _ _ => rfl
  setPc v h := h.map (f := (State.setPc · v)) fun _ _ _ => rfl
  memRead addr h := h.memRead addr
  memWrite addr v h := h.memWrite addr v

/-! ### The handlers -/

theorem readingHandler_atTime {mn : Mnemonic} {h : Byte → State → State}
    (hm : readingHandler mn = some h) (m : Byte) (s : State) (c r : Nat) :
    h m (s.atTime c r) = (h m s).atTime c r := by
  cases mn <;> cases hm <;> rfl

theorem admittedHandler_atTime {mn : Mnemonic} {h : Byte → State → State}
    (hm : admittedHandler mn = some h) (m : Byte) (s : State) (c r : Nat) :
    h m (s.atTime c r) = (h m s).atTime c r := by
  cases mn <;> cases hm <;> rfl

theorem impliedHandler_atTime {mn : Mnemonic} {h : State → State}
    (hm : impliedHandler mn = some h) (s : State) (c r : Nat) :
    h (s.atTime c r) = (h s).atTime c r := by
  cases mn <;> cases hm <;> rfl

theorem modifying_atTime {mn : Mnemonic} {res : Byte → State → Byte}
    {f : Byte → Byte → State → State} (hm : modifying mn = some (res, f)) (v w : Byte) (s : State)
    (c r : Nat) : res v (s.atTime c r) = res v s ∧ f v w (s.atTime c r) = (f v w s).atTime c r := by
  cases mn <;> cases hm <;> exact ⟨rfl, rfl⟩

theorem storingValue_atTime {mn : Mnemonic} {value : State → Byte}
    (hm : storingValue mn = some value) (s : State) (c r : Nat) :
    value (s.atTime c r) = value s := by
  cases mn <;> cases hm <;> rfl

theorem SameButTime.a_eq {s t : State} (h : SameButTime s t) : s.a = t.a := by
  obtain ⟨c, r, rfl⟩ := h; rfl

theorem SameButTime.p_eq {s t : State} (h : SameButTime s t) : s.p = t.p := by
  obtain ⟨c, r, rfl⟩ := h; rfl

theorem SameButTime.setP {s t : State} (h : SameButTime s t) (v : Byte) :
    SameButTime (s.setP v) (t.setP v) :=
  h.map (f := (State.setP · v)) fun _ _ _ => rfl

theorem SameButTime.setA {s t : State} (h : SameButTime s t) (v : Byte) :
    SameButTime (s.setA v) (t.setA v) :=
  h.map (f := (State.setA · v)) fun _ _ _ => rfl

theorem SameButTime.trapEntry {s t : State} (h : SameButTime s t) (ret vec : Word) (p : Byte) :
    Alike SameButTime SameButTime (trapEntry ret p vec s) (trapEntry ret p vec t) :=
  (busRespects_sameButTime.push16 h ret).andThen fun _ _ h1 =>
    (busRespects_sameButTime.push8 h1 p).andThen fun _ _ h2 =>
      busRespects_sameButTime.loadVector (h2.map fun _ _ _ => rfl) vec

theorem SameButTime.trapReturn {s t : State} (h : SameButTime s t) :
    Alike SameButTime SameButTime (trapReturn s) (trapReturn t) :=
  (busRespects_sameButTime.pull8 h).bind fun _ _ _ h1 =>
    (busRespects_sameButTime.pull16 (h1.setP _)).bind fun _ _ _ h2 =>
      .next (busRespects_sameButTime.setPc _ h2)

theorem addressHandler_sameButTime {mn : Mnemonic} {h : Word → State → Out State}
    (hm : addressHandler mn = some h) (ea : Word) {s t : State} (e : SameButTime s t) :
    Alike SameButTime SameButTime (h ea s) (h ea t) := by
  have tested : ∀ f, flag f s = flag f t := fun f => flag_congr e.p_eq f
  cases mn <;> cases hm
  case jmp => exact .next (busRespects_sameButTime.setPc ea e)
  case jsr => exact busRespects_sameButTime.jumpSubroutine e ea
  case nop => exact .next e
  all_goals exact busRespects_sameButTime.branch e (tested _) _ ea

theorem systemHandler_sameButTime {mn : Mnemonic} {h : State → Out State}
    (hm : systemHandler mn = some h) {s t : State} (e : SameButTime s t) :
    Alike SameButTime SameButTime (h s) (h t) := by
  cases mn <;> cases hm
  case rts => exact busRespects_sameButTime.returnFromSubroutine e
  case pha => unfold pushA; rw [e.a_eq]; exact busRespects_sameButTime.push8 e _
  case php => unfold pushStatus; rw [e.p_eq]; exact busRespects_sameButTime.push8 e _
  case pla =>
    exact (busRespects_sameButTime.pull8 e).bind fun v _ _ h1 =>
      .next (h1.map (f := ldaWith v) fun _ _ _ => rfl)
  case plp => exact (busRespects_sameButTime.pull8 e).bind fun _ _ _ h1 => .next (h1.setP _)
  case brk =>
    unfold softwareInterrupt
    rw [e.p_eq, busRespects_sameButTime.pc e]
    exact e.trapEntry _ _ _
  case rti => exact e.trapReturn

/-! ### Every instruction -/

/-- Every instruction does the same from states that differ in time alone. -/
theorem exec_sameButTime (i : Instr) {s t : State} (e : SameButTime s t) :
    Alike SameButTime SameButTime (exec i s) (exec i t) := by
  have bus := busRespects_sameButTime
  have modifies : ∀ {mn res f}, modifying mn = some (res, f) →
      (∀ v s t, SameButTime s t → res v s = res v t) ∧
        ∀ v w s t, SameButTime s t → SameButTime (f v w s) (f v w t) := by
    intro mn res f hm
    refine ⟨?_, fun v w _ _ h => h.map fun s c r => (modifying_atTime hm v w s c r).2⟩
    rintro v s _ ⟨c, r, rfl⟩
    exact (modifying_atTime hm v v s c r).1.symm
  rcases exec_shape i with ⟨hd, src, hm, hs⟩ | ⟨hd, src, hm, hs⟩ | ⟨v, m, hm, hs⟩ |
    ⟨res, f, d, hm, hs⟩ | ⟨m1, m2, res, f, hd, m, hm, h1, h2, hs⟩ | ⟨m, hm, hs⟩ | ⟨hd, hm⟩ |
    ⟨hm, hs⟩ | ⟨hd, m, hm, hs⟩ | ⟨hd, hm⟩ | hm
  · rw [exec_reading hm hs, exec_reading hm hs]
    exact bus.readOp e _ src fun v _ _ h => h.map (readingHandler_atTime hm v)
  · rw [exec_admitted hm hs, exec_admitted hm hs]
    exact bus.admittedOp e _ src fun v _ _ h => h.map (admittedHandler_atTime hm v)
  · rw [exec_storing hm hs, exec_storing hm hs]
    refine bus.storeOp e _ m ?_
    rintro s _ ⟨c, r, rfl⟩
    exact (storingValue_atTime hm s c r).symm
  · rw [exec_modifying hm hs, exec_modifying hm hs]
    obtain ⟨hres, hf⟩ := modifies hm
    exact bus.modifyOp e _ d hres hf fun _ _ h => ⟨h.a_eq, h.setA⟩
  · rw [exec_combining hm h1 h2 hs, exec_combining hm h1 h2 hs]
    obtain ⟨hres, hf⟩ := modifies h1
    exact bus.combinedOp e _ m hres hf fun v _ _ h => h.map (readingHandler_atTime h2 v)
  · rw [exec_lax hm hs, exec_lax hm hs]
    exact bus.twoReadsOp e _ m (fun v _ _ h => h.map fun _ _ _ => rfl)
      (fun v _ _ h => h.map fun _ _ _ => rfl)
  · rw [exec_implied hm, exec_implied hm]
    exact .next (bus.chargeBase (e.map (impliedHandler_atTime hm)) _)
  · rw [exec_nop hm hs, exec_nop hm hs]
    exact .next (bus.chargeBase e _)
  · rw [exec_address hm hs, exec_address hm hs]
    exact bus.addressOp e _ m fun ea _ _ h => addressHandler_sameButTime hm ea h
  · rw [exec_system hm, exec_system hm]
    exact bus.systemOp e _ fun _ _ h => systemHandler_sameButTime hm h
  · rw [exec_refused hm, exec_refused hm]
    exact .refused _ e

/-- Settles O16: setting `cyc` changes the time alone, and the outcomes agree up to time. -/
theorem instructionsDoNotReadTime : Obligations.InstructionsDoNotReadTime := by
  unfold Obligations.InstructionsDoNotReadTime
  intro i s c
  exact ((exec_sameButTime i (sameButTime_setCyc s c)).mapOutcome_eq
    fun _ _ h => h.timeless_eq).symm

end Sys2Proof.Machine
end

section
/-! PROOFS. Decoding of words written out from the encodings (R54, R84): O4. -/

namespace Sys2Proof

/-- Settles O4: each word's first byte selects the entry, and the bytes after it fill its operand. -/
theorem sampleWordsDecode : Obligations.SampleWordsDecode := by
  unfold Obligations.SampleWordsDecode
  exact ⟨rfl, rfl, rfl, rfl, rfl, rfl⟩

end Sys2Proof
end

section
/-! PROOFS. Where an instruction can fault (R56, R102, R271): O18. -/

namespace Sys2Proof.Machine

/-- An outcome that faults, if at all, at an address unmapped in `s`, the state it reports being
Faulted and having the mounts and parameters of `s`. -/
def FaultsUnmapped (s : State) {α : Type} (o : Out α) : Prop :=
  ∀ r, o = .fault r → ∃ addr final, r = .busFault addr final ∧ mountAt s addr = none ∧
    final.status = .faulted ∧ final.mounts = s.mounts ∧ final.params = s.params

/-! ### Sequencing -/

section
variable {α β : Type} {s t : State}

theorem FaultsUnmapped.next (a : α) : FaultsUnmapped s (.next a) := fun _ h => by cases h

theorem FaultsUnmapped.refused (r : Refusal) : FaultsUnmapped s (.refused r : Out α) :=
  fun _ h => by cases h

/-- What is unmapped later was unmapped before. -/
theorem FaultsUnmapped.before {o : Out α} (h : FaultsUnmapped t o) (env : EnvironmentKept s t) :
    FaultsUnmapped s o := by
  intro r hr
  obtain ⟨addr, final, hbus, hnone, hstatus, hmounts, hparams⟩ := h r hr
  exact ⟨addr, final, hbus, (mountAt_congr env.mounts_eq addr).symm.trans hnone, hstatus,
    hmounts.trans env.mounts_eq, hparams.trans env.params_eq⟩

theorem FaultsUnmapped.andThen {o : Out α} {f : α → Out β} (h : FaultsUnmapped s o)
    (k : ∀ a, o = .next a → FaultsUnmapped s (f a)) : FaultsUnmapped s (Machine.andThen o f) := by
  cases o with
  | next a => exact k a rfl
  | fault r => intro r' hr; cases hr; exact h r rfl
  | refused r => exact .refused r

/-- Sequencing after an operation that answers a state. -/
theorem FaultsUnmapped.seq {o : Out State} {f : State → Out β} (h : FaultsUnmapped s o)
    (ran : ∀ {t}, o = .next t → Ran s t) (k : ∀ t, FaultsUnmapped t (f t)) :
    FaultsUnmapped s (Machine.andThen o f) :=
  h.andThen fun t ht => (k t).before (ran ht).env

/-- Sequencing after an operation that answers a value with a state. -/
theorem FaultsUnmapped.bind {o : Out (α × State)} {f : α × State → Out β} (h : FaultsUnmapped s o)
    (ran : ∀ {v t}, o = .next (v, t) → Ran s t) (k : ∀ v t, FaultsUnmapped t (f (v, t))) :
    FaultsUnmapped s (Machine.andThen o f) :=
  h.andThen fun (v, t) ht => (k v t).before (ran ht).env

end

/-! ### The shared operations -/

theorem memRead_faultsUnmapped (addr : Word) (s : State) : FaultsUnmapped s (memRead addr s) := by
  cases hm : mountAt s addr with
  | none =>
    intro r hr
    rw [memRead_unmapped hm] at hr
    cases hr
    exact ⟨addr, _, rfl, hm, rfl, rfl, rfl⟩
  | some m =>
    obtain ⟨v, t, h⟩ := memRead_mapped (mapped_of_mountAt hm)
    rw [h]
    exact .next _

theorem memWrite_faultsUnmapped (addr : Word) (v : Byte) (s : State) :
    FaultsUnmapped s (memWrite addr v s) := by
  cases hm : mountAt s addr with
  | none =>
    intro r hr
    rw [memWrite_unmapped hm] at hr
    cases hr
    exact ⟨addr, _, rfl, hm, rfl, rfl, rfl⟩
  | some m =>
    obtain ⟨t, h⟩ := memWrite_mapped (mapped_of_mountAt hm) v
    rw [h]
    exact .next _

theorem push8_faultsUnmapped (v : Byte) (s : State) : FaultsUnmapped s (push8 v s) :=
  (memWrite_faultsUnmapped _ v s).seq memWrite_ran fun _ => .next _

theorem pull8_faultsUnmapped (s : State) : FaultsUnmapped s (pull8 s) :=
  (memRead_faultsUnmapped _ _).before (Did.setSp s _).env

theorem push16_faultsUnmapped (v : Word) (s : State) : FaultsUnmapped s (push16 v s) :=
  (push8_faultsUnmapped _ s).seq push8_ran fun _ => push8_faultsUnmapped _ _

theorem pull16_faultsUnmapped (s : State) : FaultsUnmapped s (pull16 s) :=
  (pull8_faultsUnmapped s).bind pull8_ran fun _ _ =>
    (pull8_faultsUnmapped _).bind pull8_ran fun _ _ => .next _

theorem loadVector_faultsUnmapped (vec : Word) (s : State) :
    FaultsUnmapped s (loadVector vec s) :=
  (memRead_faultsUnmapped vec s).bind memRead_ran fun _ _ =>
    (memRead_faultsUnmapped _ _).bind memRead_ran fun _ _ => .next _

theorem trapEntry_faultsUnmapped (ret vec : Word) (p : Byte) (s : State) :
    FaultsUnmapped s (trapEntry ret p vec s) :=
  (push16_faultsUnmapped ret s).seq push16_ran fun _ =>
    (push8_faultsUnmapped p _).seq push8_ran fun s2 =>
      (loadVector_faultsUnmapped vec _).before (Did.setFlag s2 .i true).env

theorem trapReturn_faultsUnmapped (s : State) : FaultsUnmapped s (trapReturn s) :=
  (pull8_faultsUnmapped s).bind pull8_ran fun v s1 =>
    FaultsUnmapped.before ((pull16_faultsUnmapped _).bind pull16_ran fun _ _ => .next _)
      (Did.setP s1 (restoredP v)).env

theorem zeroPagePointer_faultsUnmapped (z : Byte) (s : State) :
    FaultsUnmapped s (zeroPagePointer z s) :=
  (memRead_faultsUnmapped _ s).bind memRead_ran fun _ _ =>
    (memRead_faultsUnmapped _ _).bind memRead_ran fun _ _ => .next _

/-- Only the modes with a pointer make a transaction. -/
theorem resolve_faultsUnmapped (m : AddrMode) (s : State) : FaultsUnmapped s (resolve m s) := by
  cases m with
  | ind ptr =>
    exact (memRead_faultsUnmapped ptr s).bind memRead_ran fun _ _ =>
      (memRead_faultsUnmapped _ _).bind memRead_ran fun _ _ => .next _
  | izx z => exact (zeroPagePointer_faultsUnmapped _ s).bind zeroPagePointer_ran fun _ _ => .next _
  | izy z => exact (zeroPagePointer_faultsUnmapped z s).bind zeroPagePointer_ran fun _ _ => .next _
  | _ => exact .next _

theorem readSource_faultsUnmapped (src : Source) (s : State) :
    FaultsUnmapped s (readSource src s) := by
  cases src with
  | imm b => exact .next _
  | mem m =>
    exact (resolve_faultsUnmapped m s).bind resolve_ran fun ea s1 => memRead_faultsUnmapped ea s1

theorem modifyAt_mem_faultsUnmapped (ea : Word) (result : Byte → State → Byte)
    (flags : Byte → Byte → State → State) (s : State) :
    FaultsUnmapped s (modifyAt (.mem ea) result flags s) :=
  (memRead_faultsUnmapped ea s).bind memRead_ran fun _ _ =>
    (memWrite_faultsUnmapped ea _ _).seq memWrite_ran fun _ => .next _

/-! ### The handlers that make transactions -/

theorem addressHandler_faultsUnmapped {mn : Mnemonic} {h : Word → State → Out State}
    (hm : addressHandler mn = some h) (ea : Word) (s : State) : FaultsUnmapped s (h ea s) := by
  have branching : ∀ f b, FaultsUnmapped s (branch f b ea s) := by
    intro f b
    unfold branch
    split
    · exact .next _
    · exact .next _
  cases mn <;> cases hm
  case jmp => exact .next _
  case jsr => exact (push16_faultsUnmapped _ s).seq push16_ran fun _ => .next _
  case nop => exact .next _
  all_goals exact branching _ _

theorem systemHandler_faultsUnmapped {mn : Mnemonic} {h : State → Out State}
    (hm : systemHandler mn = some h) (s : State) : FaultsUnmapped s (h s) := by
  cases mn <;> cases hm
  case rts => exact (pull16_faultsUnmapped s).bind pull16_ran fun _ _ => .next _
  case pla => exact (pull8_faultsUnmapped s).bind pull8_ran fun _ _ => .next _
  case plp => exact (pull8_faultsUnmapped s).bind pull8_ran fun _ _ => .next _
  case brk => exact trapEntry_faultsUnmapped _ _ _ s
  case rti => exact trapReturn_faultsUnmapped s
  all_goals exact push8_faultsUnmapped _ s

/-! ### Every instruction -/

/-- Every instruction, shape by shape, faults only in its transactions. -/
theorem exec_faultsUnmapped (i : Instr) (s : State) : FaultsUnmapped s (exec i s) := by
  rcases exec_shape i with ⟨hd, src, hm, hs⟩ | ⟨hd, src, hm, hs⟩ | ⟨v, m, hm, hs⟩ |
    ⟨res, f, d, hm, hs⟩ | ⟨m1, m2, res, f, hd, m, hm, h1, h2, hs⟩ | ⟨m, hm, hs⟩ | ⟨hd, hm⟩ |
    ⟨hm, hs⟩ | ⟨hd, m, hm, hs⟩ | ⟨hd, hm⟩ | hm
  · rw [exec_reading hm hs]
    exact (readSource_faultsUnmapped src s).bind readSource_ran fun _ _ => .next _
  · rw [exec_admitted hm hs]
    unfold admittedOp
    split
    · exact (readSource_faultsUnmapped src s).bind readSource_ran fun _ _ => .next _
    · exact .refused _
  · rw [exec_storing hm hs]
    exact (resolve_faultsUnmapped m s).bind resolve_ran fun ea _ =>
      (memWrite_faultsUnmapped ea _ _).seq memWrite_ran fun _ => .next _
  · rw [exec_modifying hm hs]
    cases d with
    | acc => exact .next _
    | mem m =>
      unfold modifyOp resolveDest
      simp only [andThen_assoc, andThen_next]
      exact (resolve_faultsUnmapped m s).bind resolve_ran fun ea _ =>
        (modifyAt_mem_faultsUnmapped ea res f _).seq (modifyAt_ran hm) fun _ => .next _
  · rw [exec_combining hm h1 h2 hs]
    exact (resolve_faultsUnmapped m s).bind resolve_ran fun ea _ =>
      (modifyAt_mem_faultsUnmapped ea res f _).seq (modifyAt_ran h1) fun _ =>
        (memRead_faultsUnmapped ea _).bind memRead_ran fun _ _ => .next _
  · rw [exec_lax hm hs]
    exact (resolve_faultsUnmapped m s).bind resolve_ran fun ea _ =>
      (memRead_faultsUnmapped ea _).bind memRead_ran fun v s2 =>
        FaultsUnmapped.before ((memRead_faultsUnmapped ea _).bind memRead_ran fun _ _ => .next _)
          (ldaWith_handled v s2).did.env
  · rw [exec_implied hm]
    exact .next _
  · rw [exec_nop hm hs]
    exact .next _
  · rw [exec_address hm hs]
    exact (resolve_faultsUnmapped m s).bind resolve_ran fun ea _ =>
      (addressHandler_faultsUnmapped hm ea _).seq (addressHandler_ran hm) fun _ => .next _
  · rw [exec_system hm]
    exact (systemHandler_faultsUnmapped hm s).seq (systemHandler_ran hm) fun _ => .next _
  · rw [exec_refused hm]
    exact .refused _

/-- Settles O18: both transactions fault at an unmapped address, and nothing else does. -/
theorem unmappedAccessesFault : Obligations.UnmappedAccessesFault := by
  unfold Obligations.UnmappedAccessesFault
  exact ⟨fun s addr v hm => ⟨memRead_unmapped hm, memWrite_unmapped hm v⟩,
    fun i s => exec_faultsUnmapped i s⟩

end Sys2Proof.Machine
end

section
/-! PROOFS. What a transaction leaves in RAM and in the latch (R52, R53, R61, R278, R279): O19, O20. -/

namespace Sys2Proof.Machine

/-! ### Reads and writes alike -/

/-- A read or a write of the address answers, and leaves the state `t`. -/
def Transacts (addr : Word) (s t : State) : Prop :=
  (∃ v, memRead addr s = .next (v, t)) ∨ ∃ v, memWrite addr v s = .next t

/-- A transaction's own effect, a draw or a store, comes before its record and callback, and leaves
the registers, the latch, the turns and the form of RAM. -/
theorem Transacts.completes {addr : Word} {s t : State} (h : Transacts addr s t) :
    ∃ op u, t = completeTransaction op u ∧ Quiet s u ∧ u.turns = s.turns ∧ u.nmi = s.nmi ∧
      (s.mem.wf = true → u.mem.wf = true) := by
  rcases h with ⟨v, h⟩ | ⟨v, h⟩
  · unfold memRead at h
    split at h
    · cases h
    · next m hm =>
      cases h
      obtain ⟨q, hmem, _, hturns, hnmi⟩ := drawForRead_quiet m s
      exact ⟨_, _, rfl, q, hturns, hnmi, fun hw => hmem ▸ hw⟩
  · unfold memWrite at h
    split at h
    · cases h
    · next m hm =>
      cases h
      obtain ⟨q, _, hturns, hnmi⟩ := mountStore_quiet m addr v s
      refine ⟨_, _, rfl, q, hturns, hnmi, fun hw => ?_⟩
      rw [mountStore_mem hm]
      cases hc : cellOf s addr with
      | none => exact hw
      | some c => exact Memory.write_wf hw (cellOf_lt hc) v

/-! ### Changes of RAM by other chips -/

/-- In canonical RAM the cell of a change that no later one names reads as its byte. -/
theorem applyChanges_ramByte_last {earlier later : List CellChange} {c : CellChange} {s : State}
    {addr : Word} (hw : s.mem.wf = true) (hlast : ∀ c' ∈ later, cellOf s c'.addr ≠ cellOf s c.addr)
    (hc : (cellOf s c.addr).isSome = true) (he : cellOf s addr = cellOf s c.addr) :
    ramByte (applyChanges (earlier ++ c :: later) s) addr = some c.byte := by
  obtain ⟨q1, _, _, _, wf1, _⟩ := applyChanges_quiet earlier s
  obtain ⟨q2, _⟩ := applyChange_quiet c (applyChanges earlier s)
  obtain ⟨_, _, _, _, _, kept⟩ := applyChanges_quiet later (applyChange c (applyChanges earlier s))
  have cell1 := cellOf_congr q1.env.mounts_eq
  have cell2 := cellOf_congr (q1.trans q2).env.mounts_eq
  calc ramByte (applyChanges (earlier ++ c :: later) s) addr
      = ramByte (applyChanges later (applyChange c (applyChanges earlier s))) addr := by
        simp only [applyChanges, List.foldl_append, List.foldl_cons]
    _ = ramByte (applyChange c (applyChanges earlier s)) addr :=
        kept addr fun c' hc' => by rw [cell2, cell2, he]; exact hlast c' hc'
    _ = some c.byte :=
        applyChange_ramByte_same (wf1 hw) (by rw [cell1]; exact hc) (by rw [cell1, cell1]; exact he)

/-- The changes of a transaction's callback are what RAM holds after it: its events touch the latch
alone. -/
theorem completeTransaction_ramByte {op : BusOp} {s : State} {turn : BusTurn} {ts : List BusTurn}
    (h : s.turns = turn :: ts) (addr : Word) :
    ramByte (completeTransaction op s) addr = ramByte (applyChanges turn.changes
      ((s.setTrace (op :: s.trace)).setTurns ts)) addr := by
  unfold completeTransaction deliverTurn
  rw [State.setTrace_turns, h]
  obtain ⟨q, hmem, _⟩ := applyEvents_quiet turn.events
    (applyChanges turn.changes ((s.setTrace (op :: s.trace)).setTurns ts))
  exact ramByte_congr q.env.mounts_eq hmem addr

/-- A transaction leaves the last change of a cell in its callback there. -/
theorem Transacts.ramByte_lastChange {a addr : Word} {s t : State} {turn : BusTurn}
    {ts : List BusTurn} {earlier later : List CellChange} {c : CellChange} (h : Transacts a s t)
    (hw : s.mem.wf = true) (hturns : s.turns = turn :: ts)
    (hchanges : turn.changes = earlier ++ c :: later)
    (hlast : ∀ c' ∈ later, cellOf s c'.addr ≠ cellOf s c.addr)
    (hc : (cellOf s c.addr).isSome = true) (he : cellOf s addr = cellOf s c.addr) :
    ramByte t addr = some c.byte := by
  obtain ⟨op, u, rfl, q, huturns, _, hwf⟩ := h.completes
  rw [completeTransaction_ramByte (huturns.trans hturns), hchanges]
  have cell : ∀ a, cellOf ((u.setTrace (op :: u.trace)).setTurns ts) a = cellOf s a :=
    cellOf_congr q.env.mounts_eq
  refine applyChanges_ramByte_last (hwf hw) (fun c' hc' => ?_) ?_ ?_
  · rw [cell, cell]; exact hlast c' hc'
  · rw [cell]; exact hc
  · rw [cell, cell]; exact he

/-- Settles O19: what a transaction leaves at an address, the next read of a RAM address answers. -/
theorem ramReadsLastWrite : Obligations.RamReadsLastWrite := by
  unfold Obligations.RamReadsLastWrite
  intro s addr hw
  refine ⟨fun b hb => memRead_ram hb, fun v t h => ?_, ?_⟩
  · obtain ⟨q, d, stored⟩ := memWrite_did h
    exact ⟨d.wf hw, q, d.stored,
      fun hcell other he hleave => memRead_ram (stored hw hcell other he hleave)⟩
  · intro t turn ts earlier later c other h hturns hchanges hlast hc he
    have h : Transacts addr s t := h
    exact memRead_ram (h.ramByte_lastChange hw hturns hchanges hlast hc he)

/-! ### Events -/

/-- The latch after an event, as the cycle count, the parameters and the latch before it say. -/
theorem applyEvent_nmi_congr {s t : State} (hn : t.nmi = s.nmi) (hc : t.cyc = s.cyc)
    (hp : t.params = s.params) (e : Event) : (applyEvent e t).nmi = (applyEvent e s).nmi := by
  cases e with
  | cancel => simp only [applyEvent, cancelNmi, State.setNmi_nmi, hn]
  | interrupt =>
    simp only [applyEvent, interruptNmi, hn, hp, hc]
    split
    · split
      · exact hn
      · rfl
    · rfl

theorem applyEvents_nmi_congr {s t : State} (hn : t.nmi = s.nmi) (hc : t.cyc = s.cyc)
    (hp : t.params = s.params) (es : List Event) :
    (applyEvents es t).nmi = (applyEvents es s).nmi := by
  induction es generalizing s t with
  | nil => exact hn
  | cons e es ih =>
    have qs := (applyEvent_quiet e s).1
    have qt := (applyEvent_quiet e t).1
    refine ih (applyEvent_nmi_congr hn hc hp e) ?_ ?_
    · rw [qt.cyc_eq, qs.cyc_eq, hc]
    · rw [qt.env.params_eq, qs.env.params_eq, hp]

theorem applyEvents_append (es es' : List Event) (s : State) :
    applyEvents (es ++ es') s = applyEvents es' (applyEvents es s) := List.foldl_append

/-- Interrupt(NMI) (R278), by the latch it finds. -/
theorem interruptNmi_eq (s : State) :
    (s.nmi.pending = false → interruptNmi s =
      s.setNmi { pending := true, raisedAt := s.cyc, examined := false }) ∧
    (s.nmi.pending = true → s.params.nmiReraise = .keep → interruptNmi s = s) ∧
    (s.nmi.pending = true → s.params.nmiReraise = .overwrite →
      interruptNmi s = s.setNmi { s.nmi with raisedAt := s.cyc }) := by
  refine ⟨fun h => ?_, fun h hr => ?_, fun h hr => ?_⟩
  · simp [interruptNmi, h]
  · simp [interruptNmi, h, hr]
  · simp [interruptNmi, h, hr]

/-- What a transaction does to the latch: the next turn's events, now (R53). -/
theorem Transacts.nmi {addr : Word} {s t : State} (h : Transacts addr s t) :
    t.turns = s.turns.tail ∧ (s.turns = [] → t.nmi = s.nmi) ∧
      ∀ turn ts, s.turns = turn :: ts → t.nmi = (applyEvents turn.events s).nmi := by
  obtain ⟨op, u, rfl, q, huturns, hunmi, _⟩ := h.completes
  obtain ⟨_, _, hturns, hnone, _⟩ := completeTransaction_quiet op u
  refine ⟨by rw [hturns, huturns], fun he => (hnone (huturns.trans he)).trans hunmi,
    fun turn ts he => ?_⟩
  unfold completeTransaction deliverTurn
  rw [State.setTrace_turns, huturns, he]
  obtain ⟨qc, hcnmi, _⟩ := applyChanges_quiet turn.changes ((u.setTrace (op :: u.trace)).setTurns ts)
  exact applyEvents_nmi_congr (hcnmi.trans hunmi) (qc.cyc_eq.trans q.cyc_eq)
    (qc.env.params_eq.trans q.env.params_eq) turn.events

/-- Settles O20: the events of the turn are applied to the latch in order, whatever the transaction;
after a Cancel the latch is Idle whatever came before, and a later Interrupt finds it so. -/
theorem transactionDeliversEvents : Obligations.TransactionDeliversEvents := by
  unfold Obligations.TransactionDeliversEvents
  intro s t addr b cs rest h
  obtain ⟨hturns, hnone, hnmi⟩ := Transacts.nmi h
  obtain ⟨idle, keep, overwrite⟩ := interruptNmi_eq s
  refine ⟨fun he => ⟨hnone he, by rw [hturns, he]; rfl⟩, fun es he => by rw [hturns, he]; rfl,
    fun he => hnmi _ _ he, fun he => ?_, fun he => hnmi _ _ he, fun es he => ?_, fun es he => ?_⟩
  · have hint : t.nmi = (interruptNmi s).nmi := hnmi _ _ he
    exact ⟨fun hp => by rw [hint, idle hp]; rfl, fun hp hr => by rw [hint, keep hp hr],
      fun hp hr => by rw [hint, overwrite hp hr]; rfl⟩
  · rw [hnmi _ _ he, applyEvents_append]
    rfl
  · rw [hnmi _ _ he, applyEvents_append, ← (applyEvents_quiet es s).1.cyc_eq]
    rfl

end Sys2Proof.Machine
end

section
/-! PROOFS. The host's calls at a step boundary (R280, R300, R301, R60, R61): O21. -/

namespace Sys2Proof.Machine

/-! ### One call, and then the others -/

/-- The first call of a boundary acts as it does alone; the others follow it. -/
theorem boundary_cons {c : HostCall} {cs : List HostCall} {rest : List (List HostCall)} {s : State}
    (h : s.calls = (c :: cs) :: rest) :
    boundary s = andThen (hostCall c (s.setCalls rest)) (hostCalls cs) := by
  unfold boundary
  rw [h]
  rfl

/-- A call that answers leaves the boundary of the others. -/
theorem boundary_of_hostCall {c : HostCall} {cs : List HostCall} {rest : List (List HostCall)}
    {s : State} (u : State) (h : s.calls = (c :: cs) :: rest)
    (hcall : hostCall c (s.setCalls rest) = .next u) (hrest : u.calls = rest) :
    boundary s = boundary { u with calls := cs :: rest } := by
  subst hrest
  rw [boundary_cons h, hcall]
  rfl

/-- A call that faults ends the boundary, and with it the step (R272). -/
theorem boundary_of_hostCall_fault {c : HostCall} {cs : List HostCall}
    {rest : List (List HostCall)} {s : State} {r : Fault} (h : s.calls = (c :: cs) :: rest)
    (hcall : hostCall c (s.setCalls rest) = .fault r) :
    boundary s = .fault r ∧ (s.status = .running → step s = .fault r) := by
  have hb : boundary s = .fault r := by rw [boundary_cons h, hcall, andThen_fault]
  refine ⟨hb, fun hs => ?_⟩
  unfold step
  rw [hs]
  simp only [hb, andThen_fault]

/-! ### Each call -/

/-- Reset() (R300) writes the registers and `cyc`, and the latch where RESET_CLEARS_LATCH says so. -/
theorem resetCore_eq (s : State) : resetCore s = { s with
    p := s.params.resetFlags, a := 0, x := 0, y := 0, sp := 0xFD, cyc := 0, resetDone := true
    nmi := if s.params.resetClearsLatch then { s.nmi with pending := false } else s.nmi } := by
  by_cases hclears : s.params.resetClearsLatch = true
  · rw [if_pos hclears]
    exact if_pos hclears
  · rw [if_neg hclears]
    exact if_neg hclears

theorem resetCore_setCalls (s : State) (cs : List (List HostCall)) :
    resetCore (s.setCalls cs) = (resetCore s).setCalls cs := by
  rw [resetCore_eq, resetCore_eq]
  rfl

/-- Boot() leaves the coming calls (R301). -/
theorem boot_calls {s u : State} (h : boot s = .next u) : u.calls = s.calls := by
  obtain ⟨v, hv, rfl⟩ := boot_parts h
  obtain ⟨_, _, q, _⟩ := loadVector_did hv
  obtain ⟨_, _, _, _, _, hcalls, _⟩ := q.env
  have reset : (resetCore s).calls = s.calls := by rw [resetCore_eq]
  exact hcalls.trans reset

/-- Ranges that are not inverted meet exactly where an address lies in both (R60 a). -/
theorem disjointFrom_iff {m m' : Mount} (h : m.first ≤ m.last) (h' : m'.first ≤ m'.last) :
    m'.disjointFrom m = true ↔
      ∀ addr, ¬(mountCovers m addr = true ∧ mountCovers m' addr = true) := by
  simp only [Mount.disjointFrom, mountCovers, Bool.or_eq_true, Bool.and_eq_true, decide_eq_true_eq]
  constructor
  · rintro apart addr ⟨⟨_, _⟩, _, _⟩
    bv_omega
  · intro apart
    have first := apart m.first
    have first' := apart m'.first
    bv_omega

/-- A mount is appended where it meets no other. -/
theorem addMount_of_apart {m : Mount} {s : State} (h : m.first ≤ m.last)
    (hs : ∀ m' ∈ s.mounts, m'.first ≤ m'.last)
    (apart : ∀ m' ∈ s.mounts, ∀ addr, ¬(mountCovers m addr = true ∧ mountCovers m' addr = true)) :
    addMount m s = s.setMounts (s.mounts ++ [m]) := by
  have hall : s.mounts.all (fun m' => m'.disjointFrom m) = true :=
    List.all_eq_true.mpr fun m' hm' => (disjointFrom_iff h (hs m' hm')).mpr (apart m' hm')
  unfold addMount
  rw [if_pos (by simp [Mount.wf, h, hall])]

/-- A mount that shares an address with another is rejected (R60 d, R274). -/
theorem addMount_of_meeting {m m' : Mount} {s : State} {addr : Word} (h : m.first ≤ m.last)
    (h' : m'.first ≤ m'.last) (hm' : m' ∈ s.mounts)
    (both : mountCovers m addr = true ∧ mountCovers m' addr = true) : addMount m s = s := by
  unfold addMount
  refine if_neg fun hc => ?_
  have hall := List.all_eq_true.mp (Bool.and_eq_true_iff.mp hc).2 m' hm'
  exact (disjointFrom_iff h h').mp hall addr both

theorem applyChange_of_cell {c : CellChange} {s : State} {cell : Nat}
    (h : cellOf s c.addr = some cell) : applyChange c s = s.setMem (s.mem.write cell c.byte) := by
  unfold applyChange; rw [h]

theorem applyChange_of_none {c : CellChange} {s : State} (h : cellOf s c.addr = none) :
    applyChange c s = s := by
  unfold applyChange; rw [h]

/-- What RAM holds after a write of one cell. -/
theorem Memory.read_write {m : Memory} (h : m.wf = true) (cell k : Nat) (v : Byte) :
    (m.write cell v).read k = if k = cell then v else m.read k := by
  split
  · next hk => rw [hk]; exact Memory.read_write_same h cell v
  · next hk => exact Memory.read_write_ne m hk v

/-- Settles O21: each call acts as it does alone, and leaves the others of its boundary. -/
theorem hostCallsAtTheBoundary : Obligations.HostCallsAtTheBoundary := by
  unfold Obligations.HostCallsAtTheBoundary
  refine ⟨fun s h => ?_, fun s rest h => ?_, fun s cs rest => ⟨fun h => ?_, fun h => ?_, fun h => ?_,
    fun target h => ?_, fun h => ⟨fun u hu => ?_, fun r hr => ?_⟩, fun m h hm hms => ⟨fun apart => ?_,
    ?_⟩, fun c h hw => ⟨fun cell hcell => ?_, fun hnone => ?_⟩⟩⟩
  · unfold boundary; rw [h]
  · unfold boundary; rw [h]; rfl
  · obtain ⟨idle, keep, overwrite⟩ := interruptNmi_eq (s.setCalls rest)
    exact ⟨fun hp => boundary_of_hostCall _ h (congrArg Host.Outcome.next (idle hp)) rfl,
      fun hp hr => boundary_of_hostCall (s.setCalls rest) h
        (congrArg Host.Outcome.next (keep hp hr)) rfl,
      fun hp hr => boundary_of_hostCall _ h (congrArg Host.Outcome.next (overwrite hp hr)) rfl⟩
  · exact boundary_of_hostCall (cancelNmi (s.setCalls rest)) h rfl rfl
  · exact boundary_of_hostCall ((resetCore s).setCalls rest) h
      (congrArg Host.Outcome.next (resetCore_setCalls s rest)) rfl
  · exact boundary_of_hostCall (loadPc target (s.setCalls rest)) h rfl rfl
  · exact boundary_of_hostCall u h hu (boot_calls hu)
  · exact boundary_of_hostCall_fault h hr
  · exact boundary_of_hostCall _ h
      (congrArg Host.Outcome.next (addMount_of_apart (s := s.setCalls rest) hm hms apart)) rfl
  · rintro ⟨m', hm', addr, both⟩
    exact boundary_of_hostCall (s.setCalls rest) h
      (congrArg Host.Outcome.next (addMount_of_meeting hm (hms m' hm') hm' both)) rfl
  · exact ⟨s.mem.write cell c.byte, Memory.write_wf hw (cellOf_lt hcell) _,
      fun k => Memory.read_write hw cell k _,
      boundary_of_hostCall _ h
        (congrArg Host.Outcome.next (applyChange_of_cell (s := s.setCalls rest) hcell)) rfl⟩
  · exact boundary_of_hostCall (s.setCalls rest) h
      (congrArg Host.Outcome.next (applyChange_of_none hnone)) rfl

end Sys2Proof.Machine
end

section
/-! PROOFS. Faults in a fetch and in taking an exception (R56, R102, R104, R282): O37. -/

namespace Sys2Proof.Machine

/-! ### The same transactions under another SP, P or PC -/

theorem transact_setSp {ops : List BusOp} {vs : List Byte} {s t : State} (sp : Byte)
    (h : transact ops s = .next (vs, t)) : transact ops (s.setSp sp) = .next (vs, t.setSp sp) := by
  have := transact_withRegsOf (s.setSp sp) h
  rw [← congrArg (State.setSp · sp) (transact_did h).1.withRegsOf]
  exact this

theorem transact_setP {ops : List BusOp} {vs : List Byte} {s t : State} (p : Byte)
    (h : transact ops s = .next (vs, t)) : transact ops (s.setP p) = .next (vs, t.setP p) := by
  have := transact_withRegsOf (s.setP p) h
  rw [← congrArg (State.setP · p) (transact_did h).1.withRegsOf]
  exact this

theorem memRead_setPc {addr : Word} {s t : State} {v : Byte} (pc : Word)
    (h : memRead addr s = .next (v, t)) : memRead addr (s.setPc pc) = .next (v, t.setPc pc) := by
  have := memRead_withRegsOf (s.setPc pc) h
  rw [← congrArg (State.setPc · pc) (memRead_did h).1.withRegsOf]
  exact this

/-! ### Pushing a list of bytes -/

/-- The first pushes of a list are the pushes of its first bytes. -/
theorem pushWrites_take (s : State) (sp : Byte) (vs : List Byte) (k : Nat) :
    (pushWrites s sp vs).take k = pushWrites s sp (vs.take k) := by
  induction vs generalizing sp k with
  | nil => simp only [pushWrites, List.take_nil]
  | cons v vs ih =>
    cases k with
    | zero => rfl
    | succ k => simp only [pushWrites, List.take_succ_cons, ih]

/-- The stack addresses depend on STACK_BASE alone. -/
theorem pushWrites_congr {s t : State} (h : t.params = s.params) (sp : Byte) (vs : List Byte) :
    pushWrites t sp vs = pushWrites s sp vs := by
  induction vs generalizing sp with
  | nil => rfl
  | cons v vs ih => simp only [pushWrites, stackAddr, h, ih]

/-- Pushing a list of bytes is its writes, and SP counts down (R27). -/
theorem pushAll_eq {vs ws : List Byte} {s u : State}
    (h : transact (pushWrites s s.sp vs) s = .next (ws, u)) :
    pushAll vs s = .next (u.setSp (s.sp - BitVec.ofNat 8 vs.length)) := by
  induction vs generalizing s u with
  | nil =>
    obtain ⟨_, rfl⟩ := transact_nil_eq.mp h
    simp only [pushAll, List.length_nil, BitVec.sub_zero]
    rfl
  | cons v vs ih =>
    obtain ⟨s1, hwrite, hrest⟩ := transact_wr_eq.mp h
    have hparams : (s1.setSp (s.sp - 1)).params = s.params := (memWrite_did hwrite).1.env.params_eq
    have hlater : transact (pushWrites (s1.setSp (s.sp - 1)) (s.sp - 1) vs) (s1.setSp (s.sp - 1)) =
        .next (ws, u.setSp (s.sp - 1)) := by
      rw [pushWrites_congr hparams]
      exact transact_setSp (s.sp - 1) hrest
    have hsp : s.sp - 1 - BitVec.ofNat 8 vs.length = s.sp - BitVec.ofNat 8 (vs.length + 1) := by
      bv_omega
    simp only [pushAll, push8_eq hwrite, andThen_next, ih hlater, State.setSp_sp, List.length_cons,
      hsp]
    rfl

theorem pushAll_append (vs ws : List Byte) (s : State) :
    pushAll (vs ++ ws) s = andThen (pushAll vs s) (pushAll ws) := by
  induction vs generalizing s with
  | nil => rfl
  | cons v vs ih => simp only [List.cons_append, pushAll, ih, andThen_assoc]

/-- A push to an unmapped stack address faults before SP counts down (R27, R102). -/
theorem push8_unmapped {s : State} (h : mountAt s (stackAddr s s.sp) = none) (v : Byte) :
    push8 v s = .fault (.busFault (stackAddr s s.sp) (s.setStatus .faulted)) := by
  unfold push8
  rw [memWrite_unmapped h, andThen_fault]

/-- Where the stack address of byte `k` of a list is unmapped, its push faults, the pushes before it
and their SP standing. -/
theorem pushAll_fault {vs ws : List Byte} {k : Nat} {s u : State} (hk : k < vs.length)
    (h : transact ((pushWrites s s.sp vs).take k) s = .next (ws, u))
    (hnone : mountAt s (stackAddr s (s.sp - BitVec.ofNat 8 k)) = none) :
    pushAll vs s = .fault (.busFault (stackAddr s (s.sp - BitVec.ofNat 8 k))
      ((u.setSp (s.sp - BitVec.ofNat 8 k)).setStatus .faulted)) := by
  have hlen : (vs.take k).length = k := List.length_take_of_le hk.le
  have env := (transact_did h).1.env
  rw [pushWrites_take] at h
  have hbefore := pushAll_eq h
  rw [hlen] at hbefore
  have haddr : stackAddr (u.setSp (s.sp - BitVec.ofNat 8 k)) (s.sp - BitVec.ofNat 8 k) =
      stackAddr s (s.sp - BitVec.ofNat 8 k) := by
    unfold stackAddr
    rw [State.setSp_params, env.params_eq]
  have hpush : ∀ v, push8 v (u.setSp (s.sp - BitVec.ofNat 8 k)) =
      .fault (.busFault (stackAddr s (s.sp - BitVec.ofNat 8 k))
        ((u.setSp (s.sp - BitVec.ofNat 8 k)).setStatus .faulted)) := by
    intro v
    rw [← haddr]
    refine push8_unmapped ?_ v
    rw [State.setSp_sp, haddr]
    exact (mountAt_congr env.mounts_eq _).trans hnone
  calc pushAll vs s
      = pushAll (vs.take k ++ vs[k] :: vs.drop (k + 1)) s := by
        rw [← List.drop_eq_getElem_cons hk, List.take_append_drop]
    _ = _ := by
        rw [pushAll_append, hbefore, andThen_next]
        simp only [pushAll, hpush, andThen_fault]

/-! ### Taking an exception -/

/-- Reading a vector whose byte `k` is unmapped faults after the read before it, PC not loaded. -/
theorem loadVector_fault {vec : Word} {k : Nat} {vs : List Byte} {s u : State} (hk : k < 2)
    (h : transact ([BusOp.rd vec].take k) s = .next (vs, u))
    (hnone : mountAt s (vec + BitVec.ofNat 16 k) = none) :
    loadVector vec s = .fault (.busFault (vec + BitVec.ofNat 16 k) (u.setStatus .faulted)) := by
  have hlater : mountAt u (vec + BitVec.ofNat 16 k) = none :=
    ((transact_did h).2.mountAt_eq _).trans hnone
  unfold loadVector
  match k, hk with
  | 0, _ =>
    obtain ⟨_, rfl⟩ := transact_nil_eq.mp h
    rw [show vec + BitVec.ofNat 16 0 = vec from BitVec.add_zero vec] at hlater ⊢
    rw [memRead_unmapped hlater, andThen_fault]
  | 1, _ =>
    obtain ⟨v, _, t, hread, hrest, _⟩ := transact_rd_eq.mp h
    obtain ⟨_, rfl⟩ := transact_nil_eq.mp hrest
    rw [hread, andThen_next]
    exact congrArg (andThen · _) (memRead_unmapped hlater)

/-- Taking an exception (R287): three pushes, then the vector with P.I set. -/
theorem trapEntry_eq_pushAll (ret vec : Word) (p : Byte) (s : State) :
    trapEntry ret p vec s = andThen (pushAll [highByte ret, lowByte ret, p] s) fun t =>
      loadVector vec (setFlag .i true t) := by
  simp only [trapEntry, push16, pushAll, andThen_assoc, andThen_next]

/-- A push of an exception's entry that faults: the pushes before it stand. -/
theorem trapEntry_push_fault {ret vec : Word} {p : Byte} {k : Nat} {ws : List Byte} {s u : State}
    (hk : k < 3)
    (h : transact ((pushWrites s s.sp [highByte ret, lowByte ret, p]).take k) s = .next (ws, u))
    (hnone : mountAt s (stackAddr s (s.sp - BitVec.ofNat 8 k)) = none) :
    trapEntry ret p vec s = .fault (.busFault (stackAddr s (s.sp - BitVec.ofNat 8 k))
      ((u.setSp (s.sp - BitVec.ofNat 8 k)).setStatus .faulted)) := by
  rw [trapEntry_eq_pushAll, pushAll_fault hk h hnone, andThen_fault]

/-- A vector read of an exception's entry that faults: the pushes, their SP and P.I stand. -/
theorem trapEntry_vector_fault {ret vec : Word} {p : Byte} {k : Nat} {ws : List Byte} {s u : State}
    (hk : k < 2)
    (h : transact (pushWrites s s.sp [highByte ret, lowByte ret, p] ++ [BusOp.rd vec].take k) s =
      .next (ws, u))
    (hnone : mountAt s (vec + BitVec.ofNat 16 k) = none) :
    trapEntry ret p vec s = .fault (.busFault (vec + BitVec.ofNat 16 k)
      ((setFlag .i true (u.setSp (s.sp - 3))).setStatus .faulted)) := by
  obtain ⟨_, vs, t, hpushes, hreads, _⟩ := transact_append.mp h
  have qt := (transact_did hpushes).1
  have hP : (u.setSp (s.sp - 3)).p = (t.setSp (s.sp - 3)).p := (transact_did hreads).1.p_eq
  have hreads' : transact ([BusOp.rd vec].take k) (setFlag .i true (t.setSp (s.sp - 3))) =
      .next (vs, setFlag .i true (u.setSp (s.sp - 3))) := by
    unfold setFlag
    rw [hP]
    exact transact_setP _ (transact_setSp (s.sp - 3) hreads)
  rw [trapEntry_eq_pushAll, pushAll_eq hpushes, andThen_next]
  exact loadVector_fault hk hreads' ((mountAt_congr qt.env.mounts_eq _).trans hnone)

/-! ### Servicing an NMI -/

/-- ServiceNmi() (R282) after its two throwaway reads, which change no register. -/
theorem serviceNmi_after_reads {ops : List BusOp} {vs : List Byte} {s u : State} {dummy : Word}
    (hdummy : nmiDummyAddr s = dummy)
    (h : transact (.rd dummy :: .rd dummy :: ops) s = .next (vs, u)) :
    ∃ t ws, Quiet s t ∧ transact ops t = .next (ws, u) ∧ serviceNmi s =
      andThen (trapEntry s.pc (pushedByNmi s.p) nmiVector t) fun t1 => .next (endService t1) := by
  obtain ⟨_, _, s1, hread1, hrest, _⟩ := transact_rd_eq.mp h
  obtain ⟨_, ws, t, hread2, hops, _⟩ := transact_rd_eq.mp hrest
  have q1 := (memRead_did hread1).1
  have q2 := q1.trans (memRead_did hread2).1
  have hdummy1 : nmiDummyAddr s1 = dummy := by
    rw [← hdummy]
    unfold nmiDummyAddr
    rw [q1.env.params_eq, q1.pc_eq]
  refine ⟨t, ws, q2, hops, ?_⟩
  unfold serviceNmi
  simp only [hdummy, hread1, andThen_next, hdummy1, hread2, q2.pc_eq, q2.p_eq]

theorem serviceNmi_dummy_fault {s : State} (h : mountAt s (nmiDummyAddr s) = none) :
    serviceNmi s = .fault (.busFault (nmiDummyAddr s) (s.setStatus .faulted)) := by
  unfold serviceNmi
  rw [memRead_unmapped h, andThen_fault]

/-- A push of the service that faults: nothing is charged and the latch is as the events left it. -/
theorem serviceNmi_push_fault {k : Nat} {vs : List Byte} {s u : State} {dummy : Word}
    (hdummy : nmiDummyAddr s = dummy) (hk : k < 3)
    (h : transact (.rd dummy :: .rd dummy ::
      (pushWrites s s.sp [highByte s.pc, lowByte s.pc, pushedByNmi s.p]).take k) s = .next (vs, u))
    (hnone : mountAt s (stackAddr s (s.sp - BitVec.ofNat 8 k)) = none) :
    serviceNmi s = .fault (.busFault (stackAddr s (s.sp - BitVec.ofNat 8 k))
      ((u.setSp (s.sp - BitVec.ofNat 8 k)).setStatus .faulted)) := by
  obtain ⟨t, ws, q, hops, hservice⟩ := serviceNmi_after_reads hdummy h
  have hstack : ∀ sp, stackAddr t sp = stackAddr s sp := fun sp => by
    unfold stackAddr; rw [q.env.params_eq]
  rw [← pushWrites_congr q.env.params_eq, ← q.sp_eq] at hops
  rw [← q.sp_eq, ← hstack, ← mountAt_congr q.env.mounts_eq] at hnone
  rw [hservice, trapEntry_push_fault hk hops hnone, andThen_fault, hstack, q.sp_eq]

/-- A vector read of the service that faults: the same, P.I set. -/
theorem serviceNmi_vector_fault {k : Nat} {vs : List Byte} {s u : State} {dummy : Word}
    (hdummy : nmiDummyAddr s = dummy) (hk : k < 2)
    (h : transact (.rd dummy :: .rd dummy ::
      (pushWrites s s.sp [highByte s.pc, lowByte s.pc, pushedByNmi s.p] ++
        [BusOp.rd nmiVector].take k)) s = .next (vs, u))
    (hnone : mountAt s (nmiVector + BitVec.ofNat 16 k) = none) :
    serviceNmi s = .fault (.busFault (nmiVector + BitVec.ofNat 16 k)
      ((setFlag .i true (u.setSp (s.sp - 3))).setStatus .faulted)) := by
  obtain ⟨t, ws, q, hops, hservice⟩ := serviceNmi_after_reads hdummy h
  rw [← pushWrites_congr q.env.params_eq, ← q.sp_eq] at hops
  rw [← mountAt_congr q.env.mounts_eq] at hnone
  rw [hservice, trapEntry_vector_fault hk hops hnone, andThen_fault, q.sp_eq]

/-! ### The fetch of the operand bytes -/

/-- What decodes from an opcode byte and the two bytes after it is the byte's entry. -/
theorem decode_eq_instrOf {op b1 b2 : Byte} {i : Instr} {rest : List Byte}
    (h : decode [op, b1, b2] = .ok (i, rest)) : i = instrOf op b1 b2 := by
  rcases instrOf_shape op with shape | shape | shape
  · have hlen : (instrOf op 0 0).length = 1 := by rw [Instr.length, (shape 0 0).1]; rfl
    simp only [decode, hlen] at h
    cases h
    exact (shape b1 b2).2.symm
  · have hlen : (instrOf op 0 0).length = 2 := by rw [Instr.length, (shape 0 0).1]; rfl
    simp only [decode, hlen] at h
    cases h
    exact (shape b1 b2).2.symm
  · have hlen : (instrOf op 0 0).length = 3 := by rw [Instr.length, shape 0 0]; rfl
    simp only [decode, hlen] at h
    cases h
    rfl

/-- The opcode byte alone fixes whether an operand has an addressing mode. -/
theorem operandMode_isSome_instrOf (op b1 b2 : Byte) :
    (operandMode (instrOf op b1 b2).operand).isSome =
      (operandMode (instrOf op 0 0).operand).isSome := by
  have ofEntry : ∀ i : Instr, (operandMode (instrOf i.opcode 0 0).operand).isSome =
      (operandMode i.operand).isSome := by
    intro i
    cases i <;> dsimp only [Instr.opcode] <;> rfl
  rw [← ofEntry (instrOf op b1 b2), instrOf_opcode]

/-- Where a fetch reads more than the opcode, it reads as many operand bytes as the entry has. -/
theorem fetchReads_length {op b1 b2 : Byte} {pc : Word}
    (h : 2 ≤ (fetchReads (instrOf op b1 b2) pc).length) :
    unreadImmediates.contains op = false ∧ (fetchReads (instrOf op b1 b2) pc).length =
      1 + (instrOf op 0 0).operand.bytes.length := by
  unfold fetchReads at h ⊢
  rw [instrOf_opcode] at h ⊢
  split at h
  · simp at h
  · next hread =>
    refine ⟨Bool.eq_false_iff.mpr hread, ?_⟩
    rw [if_neg hread, List.length_map, List.length_range, instrOf_length, Instr.length]

/-- An unmapped first operand byte: PC stands past the opcode, past the byte too where it is
immediate (R104). -/
theorem fetchOperand_first_fault {op : Byte} {s : State}
    (hexec : refusedOpcode s.params op = false) (hread : unreadImmediates.contains op = false)
    (hbytes : 1 ≤ (instrOf op 0 0).operand.bytes.length) (hnone : mountAt s s.pc = none) :
    fetchOperand op s = .fault (.busFault s.pc ((s.setPc (s.pc +
      if (operandMode (instrOf op 0 0).operand).isSome then 0 else 1)).setStatus .faulted)) := by
  unfold fetchOperand
  rw [hexec, if_neg Bool.false_ne_true]
  cases hop : (instrOf op 0 0).operand with
  | implied => rw [hop] at hbytes; cases hbytes
  | accumulator => rw [hop] at hbytes; cases hbytes
  | immediate b =>
    have hnone' : mountAt (s.setPc (s.pc + 1)) s.pc = none := hnone
    simp only [fetchImmediate, hread, Bool.false_eq_true, if_false, memRead_unmapped hnone',
      andThen_fault]
    rfl
  | addressed m =>
    have hpc : s.setPc (s.pc + 0) = s := congrArg s.setPc (BitVec.add_zero s.pc)
    simp only [fetchOneByte, fetchTwoBytes, memRead_unmapped hnone, andThen_fault, ite_self,
      operandMode, Option.isSome_some, if_true, hpc]

/-- An unmapped second operand byte: the first is read, and PC stands at it. -/
theorem fetchOperand_second_fault {op lo : Byte} {s t : State}
    (hexec : refusedOpcode s.params op = false)
    (hbytes : (instrOf op 0 0).operand.bytes.length = 2)
    (hread : memRead s.pc s = .next (lo, t)) (hnone : mountAt s (s.pc + 1) = none) :
    fetchOperand op s = .fault (.busFault (s.pc + 1) (t.setStatus .faulted)) := by
  obtain ⟨q, d, _⟩ := memRead_did hread
  have hnone' : mountAt t (s.pc + 1) = none := (d.mountAt_eq _).trans hnone
  unfold fetchOperand
  rw [hexec, if_neg Bool.false_ne_true]
  cases hop : (instrOf op 0 0).operand with
  | implied => rw [hop] at hbytes; cases hbytes
  | accumulator => rw [hop] at hbytes; cases hbytes
  | immediate b => rw [hop] at hbytes; cases hbytes
  | addressed m =>
    have htwo : ¬ m.bytes.length = 1 := by
      rw [hop] at hbytes
      exact fun hone => absurd (hone.symm.trans hbytes) (by decide)
    simp only [if_neg htwo, fetchTwoBytes, hread, andThen_next, q.pc_eq,
      memRead_unmapped hnone', andThen_fault]

/-- The fetch after its opcode byte is read. -/
theorem fetch_eq_fetchOperand {s s1 : State} {op : Byte} (h : memRead s.pc s = .next (op, s1)) :
    fetch s = fetchOperand op (s1.setPc (s.pc + 1)) := by
  simp only [fetch, h, andThen_next, (memRead_did h).1.pc_eq]

theorem fetch_opcode_fault {s : State} (hnone : mountAt s s.pc = none) :
    fetch s = .fault (.busFault s.pc (s.setStatus .faulted)) := by
  simp only [fetch, memRead_unmapped hnone, andThen_fault]

theorem fetch_first_fault {op : Byte} {s s1 : State} (hopcode : memRead s.pc s = .next (op, s1))
    (hexec : refusedOpcode s.params op = false) (hread : unreadImmediates.contains op = false)
    (hbytes : 1 ≤ (instrOf op 0 0).operand.bytes.length) (hnone : mountAt s (s.pc + 1) = none) :
    fetch s = .fault (.busFault (s.pc + 1) ((s1.setPc (s.pc +
      if (operandMode (instrOf op 0 0).operand).isSome then 1 else 2)).setStatus .faulted)) := by
  obtain ⟨q, d, _⟩ := memRead_did hopcode
  have hexec' : refusedOpcode (s1.setPc (s.pc + 1)).params op = false := by
    rw [State.setPc_params, q.env.params_eq]; exact hexec
  have hpc : s.pc + 1 + (if (operandMode (instrOf op 0 0).operand).isSome then 0 else 1) =
      s.pc + if (operandMode (instrOf op 0 0).operand).isSome then 1 else 2 := by
    split <;> bv_omega
  rw [fetch_eq_fetchOperand hopcode,
    fetchOperand_first_fault hexec' hread hbytes ((d.mountAt_eq _).trans hnone), ← hpc]
  rfl

theorem fetch_second_fault {op lo : Byte} {s s1 s2 : State}
    (hopcode : memRead s.pc s = .next (op, s1)) (hexec : refusedOpcode s.params op = false)
    (hbytes : (instrOf op 0 0).operand.bytes.length = 2)
    (hread : memRead (s.pc + 1) s1 = .next (lo, s2)) (hnone : mountAt s (s.pc + 2) = none) :
    fetch s = .fault (.busFault (s.pc + 2) ((s2.setPc (s.pc + 1)).setStatus .faulted)) := by
  obtain ⟨q, d, _⟩ := memRead_did hopcode
  have hexec' : refusedOpcode (s1.setPc (s.pc + 1)).params op = false := by
    rw [State.setPc_params, q.env.params_eq]; exact hexec
  have hpc : s.pc + 1 + 1 = s.pc + 2 := by bv_omega
  rw [← hpc] at hnone ⊢
  rw [fetch_eq_fetchOperand hopcode, fetchOperand_second_fault hexec' hbytes
    (memRead_setPc (s.pc + 1) hread) ((d.mountAt_eq _).trans hnone)]
  rfl

/-! ### The step -/

/-- A Running, booted machine's step is the fault of its fetch, after the host's calls (R280 b). -/
theorem step_of_fetch_fault {s s0 : State} {r : Fault} (hs : s.status = .running)
    (hb : boundary s = .next s0) (hboot : s0.booted = true) (h : fetch s0 = .fault r) :
    step s = .fault r := by
  simp only [step, hs, hb, andThen_next, hboot, if_true, stepCore, h, andThen_fault]

/-- Settles O37: the fetch stops at its first unmapped byte, the service of a request at its first
unmapped address. -/
theorem faultingFetchOrServiceStops : Obligations.FaultingFetchOrServiceStops := by
  unfold Obligations.FaultingFetchOrServiceStops
  refine ⟨fun s s0 hs hb hboot => ⟨fun hnone => ?_, ?_⟩, ?_⟩
  · exact step_of_fetch_fault hs hb hboot (fetch_opcode_fault hnone)
  · intro i op b1 b2 rest s1 hopcode hdecode hexec
    obtain rfl := decode_eq_instrOf hdecode
    rw [operandMode_isSome_instrOf]
    refine ⟨fun hlen hnone => ?_, fun lo s2 hlen hread hnone => ?_⟩
    · obtain ⟨hunread, hcount⟩ := fetchReads_length hlen
      exact step_of_fetch_fault hs hb hboot
        (fetch_first_fault hopcode hexec hunread (by omega) hnone)
    · obtain ⟨_, hcount⟩ := fetchReads_length (hlen.symm ▸ (by decide : 2 ≤ 3))
      exact step_of_fetch_fault hs hb hboot
        (fetch_second_fault hopcode hexec (by omega) hread hnone)
  · rintro s dummy _ hdummy rfl
    refine ⟨fun hnone => ?_, fun k vs u hk h hnone => ?_, fun k vs u hk h hnone => ?_⟩
    · subst hdummy
      exact serviceNmi_dummy_fault hnone
    · exact serviceNmi_push_fault hdummy hk h hnone
    · have hp : u.p = s.p := (transact_did h).1.p_eq
      rw [← hp]
      exact serviceNmi_vector_fault hdummy hk h hnone

end Sys2Proof.Machine
end

section
/-! PROOFS. Decoder and encoder are inverse, entry by entry of the opcode matrix (R80 to R84): O1, O2,
O3. -/

namespace Sys2Proof

/-! ### The opcode and the operand bytes determine the instruction -/

theorem operand_bytes_cases (o : Operand) :
    o.bytes = [] ∨ (∃ b1, o.bytes = [b1]) ∨ ∃ b1 b2, o.bytes = [b1, b2] := by
  cases o with
  | implied | accumulator => exact .inl rfl
  | immediate imm => exact .inr (.inl ⟨imm, rfl⟩)
  | addressed m =>
    cases m with
    | zp b | zpx b | zpy b | izx b | izy b | rel b => exact .inr (.inl ⟨b, rfl⟩)
    | abs a | abx a | aby a | ind a => exact .inr (.inr ⟨lowByte a, highByte a, rfl⟩)

theorem instrOf_of_no_operand_byte {i : Instr} (h : i.operand.bytes = []) :
    instrOf i.opcode 0 0 = i := by
  cases i <;> cases h <;> dsimp only [Instr.opcode] <;> rfl

theorem instrOf_of_one_operand_byte {i : Instr} {b1 : Byte} (h : i.operand.bytes = [b1]) :
    instrOf i.opcode b1 0 = i := by
  cases i <;> cases h <;> dsimp only [Instr.opcode] <;> rfl

theorem instrOf_of_two_operand_bytes {i : Instr} {b1 b2 : Byte}
    (h : i.operand.bytes = [b1, b2]) : instrOf i.opcode b1 b2 = i := by
  cases i <;> cases h <;> dsimp only [Instr.opcode] <;> exact congrArg _ (wordOf_bytes _)

/-- Every instruction stands in the opcode matrix (R83). -/
theorem exists_instrOf (i : Instr) : ∃ op b1 b2, instrOf op b1 b2 = i := by
  obtain h | ⟨b1, h⟩ | ⟨b1, b2, h⟩ := operand_bytes_cases i.operand
  · exact ⟨_, _, _, instrOf_of_no_operand_byte h⟩
  · exact ⟨_, _, _, instrOf_of_one_operand_byte h⟩
  · exact ⟨_, _, _, instrOf_of_two_operand_bytes h⟩

theorem encodedRow_statement (i : Instr) : Laws.EncodedRow.Statement i := by
  unfold Laws.EncodedRow.Statement
  cases i <;> dsimp only [Instr.opcode] <;> rfl

/-- The opcode byte alone fixes the mnemonic (R80). -/
theorem instrOf_mnemonic (op b1 b2 : Byte) :
    (instrOf op b1 b2).mnemonic = (instrOf op 0 0).mnemonic := by
  have row : (instrOf (instrOf op b1 b2).opcode 0 0).mnemonic = (instrOf op b1 b2).mnemonic :=
    encodedRow_statement (instrOf op b1 b2)
  rw [← row, instrOf_opcode]

/-! ### Encoding and decoding an entry of the matrix -/

theorem encode_instrOf (op b1 b2 : Byte) :
    encode (instrOf op b1 b2) = op :: (instrOf op b1 b2).operand.bytes := by
  rw [encode, instrOf_opcode]

/-- An entry encodes to a prefix of the bytes it was filled with. -/
theorem encode_instrOf_prefix (op b1 b2 : Byte) : encode (instrOf op b1 b2) <+: [op, b1, b2] := by
  rw [encode_instrOf]
  obtain shape | shape | shape := instrOf_shape op
  · rw [(shape b1 b2).1]; exact ⟨[b1, b2], rfl⟩
  · rw [(shape b1 b2).1]; exact ⟨[b2], rfl⟩
  · rw [shape b1 b2]

theorem decode_encode_instrOf (op b1 b2 : Byte) (rest : List Byte) :
    decode (encode (instrOf op b1 b2) ++ rest) = .ok (instrOf op b1 b2, rest) := by
  rw [encode_instrOf]
  obtain shape | shape | shape := instrOf_shape op
  · rw [(shape b1 b2).1, (shape b1 b2).2]
    simp [decode, Instr.length, shape]
  · rw [(shape b1 b2).1, (shape b1 b2).2]
    simp [decode, Instr.length, shape]
  · rw [shape b1 b2]
    simp [decode, Instr.length, shape]

/-- Where `decode` answers, the bytes before those left over are the encoding of its answer. -/
theorem encode_append_of_decode {bytes rest : List Byte} {i : Instr}
    (h : decode bytes = .ok (i, rest)) : encode i ++ rest = bytes := by
  cases bytes with
  | nil => cases h
  | cons op tail =>
    obtain shape | shape | shape := instrOf_shape op
    · simp only [decode, Instr.length, shape] at h
      cases h
      rw [encode_instrOf, (shape 0 0).1]
      rfl
    · cases tail with
      | nil => simp [decode, Instr.length, shape] at h
      | cons b1 tail =>
        simp only [decode, Instr.length, shape] at h
        cases h
        rw [encode_instrOf, (shape b1 0).1]
        rfl
    · match tail with
      | [] | [_] => simp [decode, Instr.length, shape] at h
      | b1 :: b2 :: tail =>
        simp only [decode, Instr.length, shape] at h
        cases h
        rw [encode_instrOf, shape b1 b2]
        rfl

/-! ### The obligations -/

/-- Settles O1: every instruction is an entry of the matrix, and entries decode from their bytes. -/
theorem decodeOfEncode : Obligations.DecodeOfEncode := by
  unfold Obligations.DecodeOfEncode
  intro i rest _
  obtain ⟨op, b1, b2, rfl⟩ := exists_instrOf i
  exact decode_encode_instrOf op b1 b2 rest

/-- Settles O2, by the three lengths of an entry. -/
theorem encodeOfDecode : Obligations.EncodeOfDecode := by
  unfold Obligations.EncodeOfDecode
  exact fun _ _ _ => encode_append_of_decode

/-- Settles O3: the mnemonic and the length are those of the byte's entry, whatever fills it. -/
theorem opcodeByteSelectsEntry : Obligations.OpcodeByteSelectsEntry := by
  unfold Obligations.OpcodeByteSelectsEntry
  intro op
  refine ⟨(instrOf op 0 0).mnemonic, (instrOf op 0 0).length, fun b1 b2 => ?_⟩
  obtain ⟨rest, hbytes⟩ := encode_instrOf_prefix op b1 b2
  refine ⟨instrOf op b1 b2, rest, ?_, instrOf_opcode op b1 b2, instrOf_mnemonic op b1 b2,
    instrOf_length op b1 b2⟩
  rw [← hbytes]
  exact decode_encode_instrOf op b1 b2 rest

end Sys2Proof
end

section
/-! PROOFS. What the resolver answers, mode by mode (R102, R105 to R114): O22, O23, O24. -/

namespace Sys2Proof.Machine

/-! ### The modes without a pointer -/

/-- An index added inside page zero (R106, R107). -/
theorem zext16_add_toNat (z index : Byte) :
    (zext16 (z + index)).toNat = (z.toNat + index.toNat) % 256 := by
  rw [zext16_toNat, BitVec.toNat_add]

/-- An index added to an address (R109, R110). -/
theorem add_zext16_toNat (base : Word) (index : Byte) :
    (base + zext16 index).toNat = (base.toNat + index.toNat) % 65536 := by
  rw [BitVec.toNat_add, zext16_toNat]

/-- An indexed address with its surcharge, 1 exactly on a page crossing (R87, R109, R110). -/
theorem indexed_eq (base : Word) (index : Byte) (s : State) :
    indexed base index s = (base + zext16 index, { s with
      cyc := s.cyc + if (base + zext16 index).toNat / 256 = base.toNat / 256 then 0 else 1 }) := by
  rw [← crossing_eq]
  rfl

/-- Settles O22: each of these modes computes its address from the operand and a register; what is
left to say is its value as a number. -/
theorem modesWithoutPointerResolve : Obligations.ModesWithoutPointerResolve := by
  unfold Obligations.ModesWithoutPointerResolve
  exact fun s z base => ⟨⟨_, rfl, zext16_toNat z⟩,
    ⟨_, rfl, zext16_add_toNat z s.x⟩,
    ⟨_, rfl, zext16_add_toNat z s.y⟩,
    rfl,
    ⟨_, add_zext16_toNat base s.x, congrArg Host.Outcome.next (indexed_eq base s.x s)⟩,
    ⟨_, add_zext16_toNat base s.y, congrArg Host.Outcome.next (indexed_eq base s.y s)⟩,
    ⟨_, rfl, relative_toNat s.pc z⟩⟩

/-! ### Reading a pointer -/

/-- Reading a 16-bit pointer, its low byte at one address and then its high byte at another: what
the Indirect mode (R111) and the two zero-page pointer modes (R112, R113) share. -/
def readPointer (loAddr hiAddr : Word) (s : State) : Out (Word × State) :=
  andThen (memRead loAddr s) fun (lo, s1) =>
  andThen (memRead hiAddr s1) fun (hi, s2) => .next (wordOf hi lo, s2)

theorem resolve_ind_eq (ptr : Word) (s : State) :
    resolve (.ind ptr) s = readPointer ptr (wordOf (highByte ptr) (lowByte ptr + 1)) s := rfl

theorem resolve_izx_eq (z : Byte) (s : State) :
    resolve (.izx z) s = andThen (readPointer (zext16 (z + s.x)) (zext16 (z + s.x + 1)) s)
      fun (ea, t) => .next (ea, charge 1 t) := rfl

theorem resolve_izy_eq (z : Byte) (s : State) :
    resolve (.izy z) s = andThen (readPointer (zext16 z) (zext16 (z + 1)) s)
      fun (base, t) => .next (indexed base t.y t) := rfl

section
variable {loAddr hiAddr : Word} {s : State}

/-- A pointer of two mapped bytes is read by two transactions, which change no register. -/
theorem readPointer_mapped (hlo : Mapped s loAddr) (hhi : Mapped s hiAddr) :
    ∃ lo hi u, transact [.rd loAddr, .rd hiAddr] s = .next ([lo, hi], u) ∧
      readPointer loAddr hiAddr s = .next (wordOf hi lo, u) ∧
      (∀ b, ramByte s loAddr = some b → lo = b) ∧
      (ChipsLeave s hiAddr → ∀ b, ramByte s hiAddr = some b → hi = b) ∧
      Quiet s u ∧ Did [.rd hiAddr, .rd loAddr] [] s u := by
  obtain ⟨lo, t, readLo⟩ := memRead_mapped hlo
  obtain ⟨qLo, dLo, ramLo⟩ := memRead_did readLo
  obtain ⟨hi, u, readHi⟩ := memRead_mapped (dLo.mapped hhi)
  obtain ⟨qHi, dHi, ramHi⟩ := memRead_did readHi
  refine ⟨lo, hi, u, ?_, ?_, ramLo, fun hc b hb => ramHi b ((dLo.ramByte_eq hc).trans hb),
    qLo.trans qHi, dLo.trans dHi⟩
  · simp only [transact, readLo, readHi, andThen_next]
  · simp only [readPointer, readLo, readHi, andThen_next]

theorem readPointer_low_fault (h : mountAt s loAddr = none) :
    readPointer loAddr hiAddr s = .fault (.busFault loAddr (s.setStatus .faulted)) := by
  rw [readPointer, memRead_unmapped h, andThen_fault]

/-- The read of the low byte stands where the high byte is unmapped (R102). -/
theorem readPointer_high_fault {lo : Byte} {t : State} (hread : memRead loAddr s = .next (lo, t))
    (h : mountAt s hiAddr = none) :
    readPointer loAddr hiAddr s = .fault (.busFault hiAddr (t.setStatus .faulted)) := by
  have later : mountAt t hiAddr = none := ((memRead_did hread).2.1.mountAt_eq hiAddr).trans h
  simp only [readPointer, hread, andThen_next, memRead_unmapped later, andThen_fault]

end

/-! ### The modes with a pointer -/

/-- The next address inside a page (R111). -/
theorem wordOf_next_in_page_toNat (w : Word) :
    (wordOf (highByte w) (lowByte w + 1)).toNat = w.toNat / 256 * 256 + (w.toNat + 1) % 256 := by
  rw [wordOf_toNat, highByte_toNat, BitVec.toNat_add, lowByte_toNat]
  simp

/-- Settles O23: the mode reads a pointer whose second byte is the next address in the page. -/
theorem indirectModeWrapsInPage : Obligations.IndirectModeWrapsInPage := by
  unfold Obligations.IndirectModeWrapsInPage
  intro s ptr second hsecond
  obtain rfl : second = wordOf (highByte ptr) (lowByte ptr + 1) :=
    BitVec.eq_of_toNat_eq (hsecond.trans (wordOf_next_in_page_toNat ptr).symm)
  rw [resolve_ind_eq]
  refine ⟨fun hlo hhi => ?_, readPointer_low_fault, fun lo s1 => readPointer_high_fault⟩
  obtain ⟨lo, hi, u, reads, pointer, ramLo, ramHi, q, d⟩ := readPointer_mapped hlo hhi
  exact ⟨lo, hi, wordOf hi lo, u, reads, pointer, wordOf_toNat hi lo, ramLo, ramHi, d.trace,
    q.cyc_eq, Quiet.frame_of_charge (n := 0) q d, q.pc_eq⟩

/-- Settles O24: both modes read a pointer; what differs is its address and what follows it. -/
theorem zeroPagePointerModesResolve : Obligations.ZeroPagePointerModesResolve := by
  unfold Obligations.ZeroPagePointerModesResolve
  refine fun s z p0 p1 => ⟨fun h0 h1 => ?izx, fun h0 h1 => ?izy⟩
  case izx =>
    obtain rfl : p0 = zext16 (z + s.x) :=
      BitVec.eq_of_toNat_eq (h0.trans (zext16_add_toNat z s.x).symm)
    obtain rfl : p1 = zext16 (z + s.x + 1) :=
      BitVec.eq_of_toNat_eq (h1.trans (by rw [zext16_add_toNat]; simp))
    rw [resolve_izx_eq]
    refine ⟨fun hlo hhi => ?_, fun hnone => ?_, fun lo s1 hread hnone => ?_⟩
    · obtain ⟨lo, hi, u, reads, pointer, ramLo, ramHi, q, d⟩ := readPointer_mapped hlo hhi
      refine ⟨lo, hi, wordOf hi lo, u, reads, ?_, wordOf_toNat hi lo, ramLo, ramHi, d.trace,
        Quiet.frame_of_charge (n := 0) q d, q.pc_eq⟩
      rw [pointer, andThen_next, ← q.cyc_eq]
      rfl
    · rw [readPointer_low_fault hnone, andThen_fault]; rfl
    · rw [readPointer_high_fault hread hnone, andThen_fault]; rfl
  case izy =>
    obtain rfl : p0 = zext16 z := BitVec.eq_of_toNat_eq (h0.trans (zext16_toNat z).symm)
    obtain rfl : p1 = zext16 (z + 1) :=
      BitVec.eq_of_toNat_eq (h1.trans (zext16_add_toNat z 1).symm)
    rw [resolve_izy_eq]
    refine ⟨fun hlo hhi => ?_, fun hnone => ?_, fun lo s1 hread hnone => ?_⟩
    · obtain ⟨lo, hi, u, reads, pointer, ramLo, ramHi, q, d⟩ := readPointer_mapped hlo hhi
      have hpage : (wordOf hi lo).toNat / 256 = hi.toNat := by
        rw [← highByte_toNat, highByte_wordOf]
      refine ⟨lo, hi, wordOf hi lo + zext16 u.y, u, reads, ?_, ?_, ramLo, ramHi, d.trace,
        Quiet.frame_of_charge (n := 0) q d, q.pc_eq⟩
      · rw [pointer, andThen_next, ← q.cyc_eq, ← hpage]
        exact congrArg Host.Outcome.next (indexed_eq _ _ u)
      · rw [add_zext16_toNat, wordOf_toNat, q.y_eq]
    · rw [readPointer_low_fault hnone, andThen_fault]; rfl
    · rw [readPointer_high_fault hread hnone, andThen_fault]; rfl

end Sys2Proof.Machine
end

section
/-! PROOFS. An operand access at an unmapped address (R56, R102): O35. -/

namespace Sys2Proof.Machine

/-! ### Which instructions execute -/

/-- The bytes of KIL, AXA, SXA, SYA and XAS are refused whatever the parameters (R257 to R261). -/
theorem refusedOpcode_of_alwaysRefused {p : Params} {i : Instr}
    (h : alwaysRefused i.mnemonic = true) : refusedOpcode p i.opcode = true := by
  cases i <;> first
    | (cases h; done)
    | rfl

/-- An instruction that only ADMIT_UNNAMED_UNDOC admits executes where it is true (R250). -/
theorem admitted_of_executes {p : Params} {i : Instr} {h : Byte → State → State}
    (hm : admittedHandler i.mnemonic = some h) (hexec : refusedOpcode p i.opcode = false) :
    p.admitUnnamedUndoc = true := by
  cases i <;> first
    | (cases hm; done)
    | exact Bool.not_inj (y := true) hexec

/-! ### Instructions with an addressed operand -/

theorem operandSource_of_mode {o : Operand} {m : AddrMode} (h : operandMode o = some m) :
    operandSource o = some (.mem m) := by
  cases o <;> cases h
  rfl

theorem operandDest_of_mode {o : Operand} {m : AddrMode} (h : operandMode o = some m) :
    operandDest o = some (.mem m) := by
  cases o <;> cases h
  rfl

theorem impliedHandler_mode {i : Instr} {h : State → State}
    (hm : impliedHandler i.mnemonic = some h) : operandMode i.operand = none := by
  cases i <;> first
    | (cases hm; done)
    | rfl

theorem systemHandler_mode {i : Instr} {h : State → Out State}
    (hm : systemHandler i.mnemonic = some h) : operandMode i.operand = none := by
  cases i <;> first
    | (cases hm; done)
    | rfl

theorem addressHandler_accessesOperand {mn : Mnemonic} {h : Word → State → Out State}
    (hm : addressHandler mn = some h) : accessesOperand mn = false := by
  cases mn <;> cases hm <;> rfl

/-- An instruction that executes and has an addressed operand resolves it first; where its rule then
accesses the cell, an unmapped address faults with the state as the resolution left it. -/
theorem exec_resolves_first {i : Instr} {m : AddrMode} {s : State}
    (hexec : refusedOpcode s.params i.opcode = false) (hmode : operandMode i.operand = some m) :
    ∃ rest : Word × State → Out State, exec i s = andThen (resolve m s) rest ∧
      (accessesOperand i.mnemonic = true → ∀ ea t, mountAt t ea = none →
        rest (ea, t) = .fault (.busFault ea (t.setStatus .faulted))) := by
  have hsource := operandSource_of_mode hmode
  have hdest := operandDest_of_mode hmode
  rcases exec_shape i with ⟨hd, _, hm, _⟩ | ⟨hd, _, hm, _⟩ | ⟨v, _, hm, _⟩ |
    ⟨res, f, _, hm, _⟩ | ⟨m1, m2, res, f, hd, _, hm, h1, h2, _⟩ | ⟨_, hm, _⟩ | ⟨hd, hm⟩ |
    ⟨_, hnone⟩ | ⟨hd, _, hm, _⟩ | ⟨hd, hm⟩ | hm
  · rw [exec_reading hm hsource]
    simp only [readOp, readSource, andThen_assoc]
    exact ⟨_, rfl, fun _ ea t h => by simp only [memRead_unmapped h, andThen_fault]⟩
  · have hadmit : s.params.admitUnnamedUndoc = true := admitted_of_executes hm hexec
    rw [exec_admitted hm hsource]
    simp only [admittedOp, hadmit, if_true, readOp, readSource, andThen_assoc]
    exact ⟨_, rfl, fun _ ea t h => by simp only [memRead_unmapped h, andThen_fault]⟩
  · rw [exec_storing hm hmode]
    exact ⟨_, rfl, fun _ ea t h => by simp only [memWrite_unmapped h, andThen_fault]⟩
  · rw [exec_modifying hm hdest]
    simp only [modifyOp, resolveDest, andThen_assoc, andThen_next]
    exact ⟨_, rfl, fun _ ea t h => by
      simp only [modifyAt, load, memRead_unmapped h, andThen_fault]⟩
  · rw [exec_combining hm h1 h2 hmode]
    exact ⟨_, rfl, fun _ ea t h => by
      simp only [modifyAt, load, memRead_unmapped h, andThen_fault]⟩
  · rw [exec_lax hm hmode]
    exact ⟨_, rfl, fun _ ea t h => by simp only [memRead_unmapped h, andThen_fault]⟩
  · cases hmode.symm.trans (impliedHandler_mode hm)
  · cases hmode.symm.trans hnone
  · rw [exec_address hm hmode]
    exact ⟨_, rfl, fun haccess =>
      absurd (haccess.symm.trans (addressHandler_accessesOperand hm)) (by decide)⟩
  · cases hmode.symm.trans (systemHandler_mode hm)
  · cases hexec.symm.trans (refusedOpcode_of_alwaysRefused hm)

/-- Settles O35: the instruction resolves its operand first, which makes reads alone and changes no
register, and its first access is at the resolved address. -/
theorem faultingOperandAccessChangesNothing :
    Obligations.FaultingOperandAccessChangesNothing := by
  unfold Obligations.FaultingOperandAccessChangesNothing
  intro i m s hexec hmode
  obtain ⟨rest, hrun, hfault⟩ := exec_resolves_first hexec hmode
  rw [hrun]
  refine ⟨fun haccess s1 ea hres hnone => ?_, fun r hres => by rw [hres, andThen_fault]⟩
  obtain ⟨n, ops, _, q, d⟩ := resolve_did hres
  obtain ⟨hregs, _, hstored, _⟩ := q.frame_of_charge d
  refine ⟨?_, hregs, q.p_eq, q.pc_eq, hstored⟩
  rw [hres, andThen_next]
  exact hfault haccess ea s1 ((d.mountAt_eq ea).trans hnone)

end Sys2Proof.Machine
end

section
/-! PROOFS. A push or a pull at an unmapped address (R27, R102): O36. -/

namespace Sys2Proof.Machine

/-! ### Pulling a number of bytes -/

/-- The stack addresses depend on STACK_BASE alone. -/
theorem pullReads_congr {s t : State} (h : t.params = s.params) (sp : Byte) (n : Nat) :
    pullReads t sp n = pullReads s sp n := by
  induction n generalizing sp with
  | zero => rfl
  | succ n ih => simp only [pullReads, stackAddr, h, ih]

/-- A pull from an unmapped stack address faults with SP counted up (R27, R102). -/
theorem pull8_unmapped {s : State} (h : mountAt s (stackAddr s (s.sp + 1)) = none) :
    pull8 s = .fault (.busFault (stackAddr s (s.sp + 1))
      ((s.setSp (s.sp + 1)).setStatus .faulted)) :=
  memRead_unmapped (s := s.setSp (s.sp + 1)) (addr := stackAddr s (s.sp + 1)) h

/-- Where the stack address of pull `k` of `n` is unmapped, the pull faults, the pulls before it and
SP's changes standing, its own too. -/
theorem pullMany_fault {n k : Nat} {vs : List Byte} {s u : State} (hk : k < n)
    (h : transact ((pullReads s (s.sp + 1) n).take k) s = .next (vs, u))
    (hnone : mountAt s (stackAddr s (s.sp + BitVec.ofNat 8 (k + 1))) = none) :
    pullMany n s = .fault (.busFault (stackAddr s (s.sp + BitVec.ofNat 8 (k + 1)))
      ((u.setSp (s.sp + BitVec.ofNat 8 (k + 1))).setStatus .faulted)) := by
  induction n generalizing k vs s u with
  | zero => cases hk
  | succ n ih =>
    cases k with
    | zero =>
      obtain ⟨_, rfl⟩ := transact_nil_eq.mp h
      have hpull : pull8 u = _ := pull8_unmapped hnone
      rw [pullMany, hpull, andThen_fault]
      rfl
    | succ k =>
      obtain ⟨v, ws, s1, hread, hrest, _⟩ := transact_rd_eq.mp h
      have d : Did _ [] s (s1.setSp (s.sp + 1)) :=
        (memRead_did hread).2.1.trans (Did.setSp s1 (s.sp + 1))
      have hsp : s.sp + 1 + BitVec.ofNat 8 (k + 1) = s.sp + BitVec.ofNat 8 (k + 1 + 1) := by
        bv_omega
      have hlater := transact_setSp (s.sp + 1) hrest
      rw [← pullReads_congr d.env.params_eq] at hlater
      have hfault := ih (s := s1.setSp (s.sp + 1)) (Nat.lt_of_succ_lt_succ hk) hlater
        (by rw [State.setSp_sp, hsp, d.stackAddr_eq, d.mountAt_eq]; exact hnone)
      rw [State.setSp_sp, hsp, d.stackAddr_eq] at hfault
      simp only [pullMany, pull8_eq hread, andThen_next, hfault, andThen_fault]
      rfl

/-- A pull is pulling one byte. -/
theorem pull8_eq_pullMany (s : State) :
    pull8 s = andThen (pullMany 1 s) fun (vs, t) => .next (vs.getD 0 0, t) := by
  simp only [pullMany, andThen_assoc, andThen_next, List.getD_cons_zero]
  cases pull8 s <;> rfl

/-- Pulling a word is pulling two bytes, the low one first. -/
theorem pull16_eq_pullMany (s : State) :
    pull16 s = andThen (pullMany 2 s) fun (vs, t) =>
      .next (wordOf (vs.getD 1 0) (vs.getD 0 0), t) := by
  simp only [pull16, pullMany, andThen_assoc, andThen_next, List.getD_cons_zero,
    List.getD_cons_succ]

/-! ### The instructions that push and pull -/

/-- An instruction that pushes makes its pushes first. -/
theorem exec_pushes_first {i : Instr} {s : State} (h : pushedBytes i.mnemonic s ≠ []) :
    ∃ rest : State → Out State, exec i s = andThen (pushAll (pushedBytes i.mnemonic s) s) rest := by
  have one : ∀ {op : Byte} {v : Byte}, ∃ rest : State → Out State,
      systemOp op (push8 v) s = andThen (pushAll [v] s) rest := by
    intro op v
    simp only [systemOp, pushAll, andThen_assoc, andThen_next]
    exact ⟨_, rfl⟩
  cases i
  case pha => exact one
  case php => exact one
  case jsr addr =>
    show ∃ rest, exec (.jsr addr) s =
      andThen (pushAll [highByte (s.pc - 1), lowByte (s.pc - 1)] s) rest
    rw [exec_address (m := .abs addr) rfl rfl]
    simp only [pushAll, addressOp, resolve, andThen_next, jumpSubroutine, push16, andThen_assoc]
    exact ⟨_, rfl⟩
  case brk =>
    rw [exec_system rfl]
    simp only [systemOp, softwareInterrupt, trapEntry_eq_pushAll, andThen_assoc]
    exact ⟨_, rfl⟩
  all_goals exact absurd rfl h

/-- PLA, PLP and RTS make their pulls first; RTI restores P after its first one. -/
theorem exec_pulls_first {i : Instr} {s : State} (h : pulledCount i.mnemonic ≠ 0)
    (hrti : i.mnemonic ≠ .rti) : ∃ rest : List Byte × State → Out State,
      exec i s = andThen (pullMany (pulledCount i.mnemonic) s) rest := by
  cases i
  case pla =>
    rw [exec_system rfl]
    simp only [systemOp, pullA, pull8_eq_pullMany, andThen_assoc]
    exact ⟨_, rfl⟩
  case plp =>
    rw [exec_system rfl]
    simp only [systemOp, pullStatus, pull8_eq_pullMany, andThen_assoc]
    exact ⟨_, rfl⟩
  case rts =>
    rw [exec_system rfl]
    simp only [systemOp, returnFromSubroutine, pull16_eq_pullMany, andThen_assoc]
    exact ⟨_, rfl⟩
  case rti => exact absurd rfl hrti
  all_goals exact absurd rfl h

/-- A pull of RTI after its first, at an unmapped address: P is restored already (R221). -/
theorem trapReturn_later_fault {k : Nat} {v : Byte} {vs : List Byte} {s t u : State} (hk : k < 2)
    (hfirst : memRead (stackAddr s (s.sp + 1)) s = .next (v, t))
    (h : transact ((pullReads s (s.sp + 2) 2).take k) t = .next (vs, u))
    (hnone : mountAt s (stackAddr s (s.sp + BitVec.ofNat 8 (k + 2))) = none) :
    trapReturn s = .fault (.busFault (stackAddr s (s.sp + BitVec.ofNat 8 (k + 2)))
      (((u.setSp (s.sp + BitVec.ofNat 8 (k + 2))).setP (restoredP v)).setStatus .faulted)) := by
  have d : Did _ [] s ((t.setSp (s.sp + 1)).setP (restoredP v)) :=
    (memRead_did hfirst).2.1.trans ((Did.setSp t _).trans (Did.setP _ _))
  have hnext : s.sp + 1 + 1 = s.sp + 2 := by bv_omega
  have hsp : s.sp + 1 + BitVec.ofNat 8 (k + 1) = s.sp + BitVec.ofNat 8 (k + 2) := by bv_omega
  have hlater := transact_setP (restoredP v) (transact_setSp (s.sp + 1) h)
  rw [← pullReads_congr d.env.params_eq, ← hnext] at hlater
  have hfault := pullMany_fault (s := (t.setSp (s.sp + 1)).setP (restoredP v)) hk hlater
    (by rw [State.setP_sp, State.setSp_sp, hsp, d.stackAddr_eq, d.mountAt_eq]; exact hnone)
  rw [State.setP_sp, State.setSp_sp, hsp, d.stackAddr_eq] at hfault
  simp only [trapReturn, pull8_eq hfirst, andThen_next, pull16_eq_pullMany, hfault, andThen_fault]
  rfl

/-- The first pull of RTI at an unmapped address. -/
theorem trapReturn_first_fault {s : State} (h : mountAt s (stackAddr s (s.sp + 1)) = none) :
    trapReturn s = .fault (.busFault (stackAddr s (s.sp + 1))
      ((s.setSp (s.sp + 1)).setStatus .faulted)) := by
  rw [trapReturn, pull8_unmapped h, andThen_fault]

theorem exec_rti {i : Instr} (h : i.mnemonic = .rti) (s : State) :
    exec i s = systemOp i.opcode trapReturn s :=
  exec_system (by rw [h]; rfl) s

/-- Settles O36: pushes and pulls come first in their instructions, and the first at an unmapped
address faults; RTI's P and BRK's vector are the two things that come between and after. -/
theorem faultingStackAccessKeepsEarlierOnes :
    Obligations.FaultingStackAccessKeepsEarlierOnes := by
  unfold Obligations.FaultingStackAccessKeepsEarlierOnes
  refine ⟨fun i s u k vs hk h hnone => ?pushes, fun i s u k vs hk h hnone => ?pulls,
    fun s u k vs hk h hnone => ?vector⟩
  case pushes =>
    obtain ⟨rest, hrun⟩ := exec_pushes_first (List.ne_nil_of_length_pos (Nat.zero_lt_of_lt hk))
    rw [hrun, pushAll_fault hk h hnone, andThen_fault]
    rfl
  case pulls =>
    have hp : u.p = s.p := (transact_did h).1.p_eq
    by_cases hrti : i.mnemonic = .rti
    · rw [hrti] at hk h ⊢
      rw [exec_rti hrti, systemOp]
      cases k with
      | zero =>
        obtain ⟨rfl, rfl⟩ := transact_nil_eq.mp h
        rw [trapReturn_first_fault hnone, andThen_fault]
        rfl
      | succ k =>
        obtain ⟨v, ws, t, hfirst, hlater, rfl⟩ := transact_rd_eq.mp h
        have hnext : s.sp + 1 + 1 = s.sp + 2 := by bv_omega
        rw [hnext] at hlater
        rw [trapReturn_later_fault (Nat.lt_of_succ_lt_succ hk) hfirst hlater hnone, andThen_fault]
        rfl
    · obtain ⟨rest, hrun⟩ := exec_pulls_first (Nat.ne_zero_of_lt hk) hrti
      rw [hrun, pullMany_fault hk h hnone, andThen_fault]
      split
      · contradiction
      · rw [← hp]
        rfl
  case vector =>
    have hp : u.p = s.p := (transact_did h).1.p_eq
    have hentry := trapEntry_vector_fault (ret := s.pc + 1) (p := pushedBySoftware s.p)
      (vec := brkVector) hk h hnone
    rw [exec_system rfl, systemOp, softwareInterrupt, hentry, andThen_fault, ← hp]
    rfl

end Sys2Proof.Machine
end

section
/-! PROOFS. A step runs the instruction that its fetch reads (R100, R103, R104, R239): O5. -/

namespace Sys2Proof.Machine

/-! ### Reads in order -/

/-- A read that answers the first of a list of bytes, and transactions that answer the others. -/
theorem transact_rd_cons {addr : Word} {ops : List BusOp} {v : Byte} {vs : List Byte}
    {s u : State} :
    transact (.rd addr :: ops) s = .next (v :: vs, u) ↔
      ∃ t, memRead addr s = .next (v, t) ∧ transact ops t = .next (vs, u) := by
  rw [transact_rd_eq]
  constructor
  · rintro ⟨_, _, t, hread, hrest, ⟨⟩⟩
    exact ⟨t, hread, hrest⟩
  · rintro ⟨t, hread, hrest⟩
    exact ⟨v, vs, t, hread, hrest, rfl⟩

theorem transact_setPc {ops : List BusOp} {vs : List Byte} {s t : State} (pc : Word)
    (h : transact ops s = .next (vs, t)) : transact ops (s.setPc pc) = .next (vs, t.setPc pc) := by
  have := transact_withRegsOf (s.setPc pc) h
  rw [← congrArg (State.setPc · pc) (transact_did h).1.withRegsOf]
  exact this

/-- The first `n` addresses from one on, wrapping (R25): those `fetchReads` lists for a whole
instruction. -/
def addressesFrom (pc : Word) (n : Nat) : List Word :=
  (List.range n).map fun k => pc + BitVec.ofNat 16 k

theorem addressesFrom_succ (pc : Word) (n : Nat) :
    addressesFrom pc (n + 1) = pc :: addressesFrom (pc + 1) n := by
  unfold addressesFrom
  rw [List.range_succ_eq_map, List.map_cons, List.map_map, BitVec.add_zero]
  congr 2
  funext k
  show pc + BitVec.ofNat 16 (k + 1) = pc + 1 + BitVec.ofNat 16 k
  bv_omega

theorem addressesFrom_length (pc : Word) (n : Nat) : (addressesFrom pc n).length = n := by
  rw [addressesFrom, List.length_map, List.length_range]

theorem fetchReads_unread {i : Instr} (h : unreadImmediates.contains i.opcode = true) (pc : Word) :
    fetchReads i pc = [pc] := if_pos h

theorem fetchReads_read {i : Instr} (h : unreadImmediates.contains i.opcode = false) (pc : Word) :
    fetchReads i pc = addressesFrom pc i.length := if_neg (Bool.eq_false_iff.mp h)

/-- The reads of a fetch are the first ones of all the instruction's addresses (R104, R239). -/
theorem fetchReads_eq_take (i : Instr) (pc : Word) :
    fetchReads i pc = (addressesFrom pc i.length).take (fetchReads i pc).length := by
  cases hread : unreadImmediates.contains i.opcode with
  | true => rw [fetchReads_unread hread, Instr.length, Nat.add_comm, addressesFrom_succ]; rfl
  | false => rw [fetchReads_read hread, List.take_length]

/-! ### The operand bytes, by how many the opcode's entry has -/

section
variable {op : Byte} {s : State} (hexec : refusedOpcode s.params op = false)
include hexec

theorem fetchOperand_of_no_byte (hbytes : (instrOf op 0 0).operand.bytes.length = 0) :
    fetchOperand op s = .next (instrOf op 0 0, s) := by
  unfold fetchOperand
  rw [hexec, if_neg Bool.false_ne_true]
  cases hop : (instrOf op 0 0).operand with
  | implied => rfl
  | accumulator => rfl
  | immediate b => rw [hop] at hbytes; cases hbytes
  | addressed m => rw [hop] at hbytes; cases m <;> cases hbytes

/-- One operand byte: whether PC passes it before its read (R104) or after (R105), it is read at the
address PC had. -/
theorem fetchOperand_of_one_byte (hread : unreadImmediates.contains op = false)
    (hbytes : (instrOf op 0 0).operand.bytes.length = 1) {b : Byte} {t : State}
    (hb : memRead s.pc s = .next (b, t)) :
    fetchOperand op s = .next (instrOf op b 0, t.setPc (s.pc + 1)) := by
  unfold fetchOperand
  rw [hexec, if_neg Bool.false_ne_true]
  cases hop : (instrOf op 0 0).operand with
  | implied => rw [hop] at hbytes; cases hbytes
  | accumulator => rw [hop] at hbytes; cases hbytes
  | immediate imm =>
    simp only [fetchImmediate, hread, Bool.false_eq_true, if_false, memRead_setPc _ hb,
      andThen_next]
  | addressed m =>
    have hone : m.bytes.length = 1 := by rw [hop] at hbytes; exact hbytes
    simp only [hone, if_true, fetchOneByte, hb, andThen_next, (memRead_did hb).1.pc_eq]

theorem fetchOperand_of_two_bytes (hbytes : (instrOf op 0 0).operand.bytes.length = 2)
    {lo hi : Byte} {t u : State} (hlo : memRead s.pc s = .next (lo, t))
    (hhi : memRead (s.pc + 1) t = .next (hi, u)) :
    fetchOperand op s = .next (instrOf op lo hi, u.setPc (s.pc + 2)) := by
  have hpc : t.pc = s.pc := (memRead_did hlo).1.pc_eq
  unfold fetchOperand
  rw [hexec, if_neg Bool.false_ne_true]
  cases hop : (instrOf op 0 0).operand with
  | implied => rw [hop] at hbytes; cases hbytes
  | accumulator => rw [hop] at hbytes; cases hbytes
  | immediate imm => rw [hop] at hbytes; cases hbytes
  | addressed m =>
    have htwo : m.bytes.length = 2 := by rw [hop] at hbytes; exact hbytes
    simp only [htwo, OfNat.ofNat_ne_one, if_false, fetchTwoBytes, hlo, andThen_next, hpc, hhi,
      (memRead_did hhi).1.pc_eq]

/-- Where the reads at PC and after answer the operand bytes of an entry, the fetch of the operand
is those reads, and PC goes past them. -/
theorem fetchOperand_of_reads (hread : unreadImmediates.contains op = false) {b1 b2 : Byte}
    {u : State} (h : transact
      ((addressesFrom s.pc (instrOf op b1 b2).operand.bytes.length).map .rd) s =
        .next ((instrOf op b1 b2).operand.bytes, u)) :
    fetchOperand op s = .next (instrOf op b1 b2,
      u.setPc (s.pc + BitVec.ofNat 16 (instrOf op b1 b2).operand.bytes.length)) := by
  obtain shape | shape | shape := instrOf_shape op
  · rw [(shape b1 b2).1] at h ⊢
    obtain ⟨_, rfl⟩ := transact_nil_eq.mp h
    rw [fetchOperand_of_no_byte hexec (by rw [(shape 0 0).1]; rfl), (shape b1 b2).2,
      List.length_nil, BitVec.add_zero]
    rfl
  · rw [(shape b1 b2).1, List.length_singleton, addressesFrom_succ] at h
    obtain ⟨t, hb1, hrest⟩ := transact_rd_cons.mp h
    obtain ⟨_, rfl⟩ := transact_nil_eq.mp hrest
    rw [fetchOperand_of_one_byte hexec hread (by rw [(shape 0 0).1]; rfl) hb1, (shape b1 b2).1,
      (shape b1 b2).2]
    rfl
  · rw [shape b1 b2, List.length_cons, List.length_singleton, addressesFrom_succ,
      addressesFrom_succ] at h
    obtain ⟨t, hb1, hrest⟩ := transact_rd_cons.mp h
    obtain ⟨t1, hb2, hrest⟩ := transact_rd_cons.mp hrest
    obtain ⟨_, rfl⟩ := transact_nil_eq.mp hrest
    rw [fetchOperand_of_two_bytes hexec (by rw [shape 0 0]; rfl) hb1 hb2, shape b1 b2]
    rfl

end

/-! ### The immediate NOPs, whose operand byte is not read -/

/-- The immediate NOPs: one operand byte, and no meaning that depends on it (R239). -/
theorem unreadImmediate_nop {i : Instr} (h : unreadImmediates.contains i.opcode = true) :
    i.mnemonic = .nop ∧ ∃ b, i.operand = .immediate b := by
  cases i <;> first
    | (cases h; done)
    | exact ⟨rfl, _, rfl⟩

theorem exec_unreadImmediate {i : Instr} (h : unreadImmediates.contains i.opcode = true)
    (s : State) : exec i s = impliedOp i.opcode nothing s := by
  obtain ⟨hnop, b, hoperand⟩ := unreadImmediate_nop h
  exact exec_nop hnop (by rw [hoperand]; rfl) s

theorem fetchOperand_unread {op : Byte} {s : State} (hexec : refusedOpcode s.params op = false)
    (h : unreadImmediates.contains op = true) :
    fetchOperand op s = .next (unreadInstr op s, s.setPc (s.pc + 1)) := by
  obtain ⟨_, b, hoperand⟩ := unreadImmediate_nop (i := instrOf op 0 0) (by rwa [instrOf_opcode])
  simp only [fetchOperand, hexec, Bool.false_eq_true, if_false, hoperand, fetchImmediate, h,
    if_true]

/-! ### The whole fetch -/

/-- Where the reads of its fetch answer the bytes of an instruction that executes, the fetch is
those reads, PC goes past the instruction, and what it answers executes as the instruction does. -/
theorem fetch_of_reads {i : Instr} {s u : State} (hexec : refusedOpcode s.params i.opcode = false)
    (h : transact ((fetchReads i s.pc).map .rd) s =
      .next ((encode i).take (fetchReads i s.pc).length, u)) :
    ∃ j, fetch s = .next (j, u.setPc (s.pc + BitVec.ofNat 16 i.length)) ∧ exec j = exec i := by
  have executes : ∀ {t : State}, memRead s.pc s = .next (i.opcode, t) →
      refusedOpcode (t.setPc (s.pc + 1)).params i.opcode = false := fun hopcode => by
    rw [State.setPc_params, (memRead_did hopcode).1.env.params_eq]; exact hexec
  have past : ∀ n, s.pc + 1 + BitVec.ofNat 16 n = s.pc + BitVec.ofNat 16 (1 + n) := by
    intro n; bv_omega
  cases hread : unreadImmediates.contains i.opcode with
  | true =>
    obtain ⟨_, b, hoperand⟩ := unreadImmediate_nop hread
    rw [fetchReads_unread hread] at h
    obtain ⟨t, hopcode, hrest⟩ := transact_rd_cons.mp h
    obtain ⟨_, rfl⟩ := transact_nil_eq.mp hrest
    refine ⟨unreadInstr i.opcode (u.setPc (s.pc + 1)), ?_, funext fun t => ?_⟩
    · rw [fetch_eq_fetchOperand hopcode, fetchOperand_unread (executes hopcode) hread, Instr.length,
        hoperand, ← past]
      rfl
    · rw [unreadInstr, exec_unreadImmediate hread,
        exec_unreadImmediate (by rw [instrOf_opcode]; exact hread), instrOf_opcode]
  | false =>
    refine ⟨i, ?_, rfl⟩
    rw [fetchReads_read hread, addressesFrom_length, Instr.length, Nat.add_comm,
      addressesFrom_succ] at h
    obtain ⟨t, hopcode, hrest⟩ := transact_rd_cons.mp h
    rw [List.take_length] at hrest
    rw [fetch_eq_fetchOperand hopcode, Instr.length, ← past]
    obtain ⟨op, b1, b2, rfl⟩ := exists_instrOf i
    rw [instrOf_opcode] at hread executes hopcode ⊢
    rw [fetchOperand_of_reads (executes hopcode) hread (transact_setPc (s.pc + 1) hrest)]
    rfl

/-! ### The bytes in RAM -/

/-- The bytes of a stretch of code stand at the addresses from its start on. -/
theorem CodeAt.forall₂ {s : State} {pc : Word} {bytes : List Byte} (h : CodeAt s pc bytes) :
    List.Forall₂ (fun addr b => ramByte s addr = some b) (addressesFrom pc bytes.length) bytes := by
  induction bytes generalizing pc with
  | nil => exact .nil
  | cons b bytes ih =>
    obtain ⟨hb, hrest⟩ := h
    rw [List.length_cons, addressesFrom_succ]
    exact .cons hb (ih hrest)

/-- Reads in RAM that no other chip changes meanwhile answer the bytes that stand there. -/
theorem transact_reads_ram {addrs : List Word} {bytes : List Byte} {s : State}
    (h : List.Forall₂ (fun addr b => ramByte s addr = some b) addrs bytes)
    (hleave : ∀ addr ∈ addrs, ChipsLeave s addr) :
    ∃ u, transact (addrs.map .rd) s = .next (bytes, u) := by
  induction addrs generalizing bytes s with
  | nil => cases h; exact ⟨s, rfl⟩
  | cons addr addrs ih =>
    obtain ⟨b, bytes, hb, hrest, rfl⟩ := List.forall₂_cons_left_iff.mp h
    obtain ⟨t, hread⟩ := memRead_ram hb
    have d := (memRead_did hread).2.1
    have leave : ∀ a ∈ addrs, ChipsLeave s a := fun a ha => hleave a (List.mem_cons_of_mem _ ha)
    have hlater : List.Forall₂ (fun addr b => ramByte t addr = some b) addrs bytes :=
      ((List.forall₂_and_left _ _).mpr ⟨leave, hrest⟩).imp
        fun _ _ ⟨hc, hb⟩ => (d.ramByte_eq hc).trans hb
    obtain ⟨u, hu⟩ := ih hlater fun a ha => d.chipsLeave (leave a ha)
    exact ⟨u, transact_rd_cons.mpr ⟨t, hread, hu⟩⟩

/-! ### The step -/

/-- A Running, booted machine's step after its fetch (R100). -/
theorem step_of_fetch {s s0 s1 : State} {i : Instr} (hs : s.status = .running)
    (hb : boundary s = .next s0) (hboot : s0.booted = true) (h : fetch s0 = .next (i, s1)) :
    step s = andThen (exec i s1) fun t => andThen (nmiCheck t) checkCycleWidth := by
  simp only [step, hs, hb, andThen_next, hboot, if_true, stepCore, h]

/-- Settles O5: what decodes to the instruction is its encoding; the fetch reads the first of those
bytes, or all. -/
theorem stepRunsDecodedInstruction : Obligations.StepRunsDecodedInstruction := by
  unfold Obligations.StepRunsDecodedInstruction
  intro s s0 bytes i hs hb hboot hdecode hexec
  obtain rfl : encode i = bytes := (List.append_nil _).symm.trans (encode_append_of_decode hdecode)
  refine ⟨fun s1 hreads => ?_, fun hcode hleave => ?_⟩
  · obtain ⟨j, hfetch, hsame⟩ := fetch_of_reads hexec hreads
    rw [step_of_fetch hs hb hboot hfetch, hsame]
  · have hlength : (encode i).length = i.length := Nat.add_comm _ _
    have hbytes := List.forall₂_take (fetchReads i s0.pc).length hcode.forall₂
    rw [hlength, ← fetchReads_eq_take] at hbytes
    exact transact_reads_ram hbytes hleave

end Sys2Proof.Machine
end

section
/-! PROOFS. The decimal flag and the interrupt-disable flag are inert (R130, R289): O17. -/

namespace Sys2Proof.Machine

/-! ### Setting one of the two flags before a write or after it -/

/-- The two flags that no computation reads. -/
def Flag.Inert (f : Flag) : Prop := f = .d ∨ f = .i

/-- Writes of different flags may be made in either order. -/
theorem setFlag_comm {f g : Flag} (h : g ≠ f) (b c : Bool) (s : State) :
    setFlag g c (setFlag f b s) = setFlag f b (setFlag g c s) := by
  refine congrArg s.setP (BitVec.eq_of_getLsbD_eq fun j hj => ?_)
  have hindex : g.index ≠ f.index := fun e => h (Flag.index_inj e)
  simp only [setFlag_p, withBit_getLsbD _ _ _ _ hj]
  by_cases hg : j = g.index <;> simp [hg, hindex]

section
variable (f : Flag) (b : Bool) (s : State) (v : Byte)

theorem setA_setFlag : (setFlag f b s).setA v = setFlag f b (s.setA v) := rfl
theorem setX_setFlag : (setFlag f b s).setX v = setFlag f b (s.setX v) := rfl
theorem setY_setFlag : (setFlag f b s).setY v = setFlag f b (s.setY v) := rfl
theorem setSp_setFlag : (setFlag f b s).setSp v = setFlag f b (s.setSp v) := rfl
theorem drawn_setFlag : (setFlag f b s).drawn = setFlag f b s.drawn := rfl

end

section
variable {f g : Flag} (hf : f.Inert) (b : Bool)
include hf

theorem setFlag_setInert (hd : g ≠ .d) (hi : g ≠ .i) (c : Bool) (s : State) :
    setFlag g c (setFlag f b s) = setFlag f b (setFlag g c s) :=
  setFlag_comm (by rcases hf with rfl | rfl <;> assumption) b c s

theorem flag_setInert (hd : g ≠ .d) (hi : g ≠ .i) (s : State) :
    flag g (setFlag f b s) = flag g s :=
  flag_setFlag_of_ne (by rcases hf with rfl | rfl <;> assumption) b s

theorem setNZ_setInert (v : Byte) (s : State) :
    setNZ v (setFlag f b s) = setFlag f b (setNZ v s) := by
  simp [setNZ, setFlag_setInert hf]

theorem carryByte_setInert (s : State) : carryByte (setFlag f b s) = carryByte s := by
  simp [carryByte, flag_setInert hf]

theorem adcSum_setInert (m : Byte) (s : State) : adcSum m (setFlag f b s) = adcSum m s := by
  simp [adcSum, carryNat, flag_setInert hf]

theorem sbcDiff_setInert (m : Byte) (s : State) : sbcDiff m (setFlag f b s) = sbcDiff m s := by
  simp [sbcDiff, carryNat, flag_setInert hf]

/-! ### The handlers -/

theorem adcWith_setInert (m : Byte) (s : State) :
    adcWith m (setFlag f b s) = setFlag f b (adcWith m s) := by
  unfold adcWith
  rw [adcSum_setInert hf]
  simp only [setFlag_a, setFlag_setInert hf, setA_setFlag, setNZ_setInert hf, ne_eq, reduceCtorEq,
    not_false_eq_true]

theorem sbcWith_setInert (m : Byte) (s : State) :
    sbcWith m (setFlag f b s) = setFlag f b (sbcWith m s) := by
  unfold sbcWith
  rw [sbcDiff_setInert hf]
  simp only [setFlag_a, setFlag_setInert hf, setA_setFlag, setNZ_setInert hf, ne_eq, reduceCtorEq,
    not_false_eq_true]

theorem compareWith_setInert (r m : Byte) (s : State) :
    compareWith r m (setFlag f b s) = setFlag f b (compareWith r m s) := by
  simp [compareWith, setFlag_setInert hf, setNZ_setInert hf]

theorem readingHandler_setInert {mn : Mnemonic} {h : Byte → State → State}
    (hm : readingHandler mn = some h) (m : Byte) (s : State) :
    h m (setFlag f b s) = setFlag f b (h m s) := by
  cases mn <;> cases hm
  case adc => exact adcWith_setInert hf b m s
  case sbc => exact sbcWith_setInert hf b m s
  case cmp | cpx | cpy => exact compareWith_setInert hf b _ m s
  all_goals
    simp [andWith, oraWith, eorWith, bitWith, aacWith, ldaWith, ldxWith, ldyWith,
      setFlag_setInert hf, setNZ_setInert hf, setA_setFlag, setX_setFlag, setY_setFlag]

theorem admittedHandler_setInert {mn : Mnemonic} {h : Byte → State → State}
    (hm : admittedHandler mn = some h) (m : Byte) (s : State) :
    h m (setFlag f b s) = setFlag f b (h m s) := by
  cases mn <;> cases hm
  -- AXS compares A &&& X with its operand and loads X with the difference.
  case axs =>
    exact compareWith_setInert hf b (s.a &&& s.x) m (s.setX ((s.a &&& s.x) - m))
  all_goals
    simp [asrWith, arrWith, larWith, atxWith, xaaWith, andWith, lsrFlags, lsrResult,
      rorResult, carryByte_setInert hf, setFlag_setInert hf, setNZ_setInert hf, setA_setFlag,
      setX_setFlag, setSp_setFlag, drawn_setFlag]

theorem modifying_setInert {mn : Mnemonic} {res : Byte → State → Byte}
    {flags : Byte → Byte → State → State} (hm : modifying mn = some (res, flags)) (v w : Byte)
    (s : State) : res v (setFlag f b s) = res v s ∧
      flags v w (setFlag f b s) = setFlag f b (flags v w s) := by
  cases mn <;> cases hm <;>
    simp [aslResult, aslFlags, lsrResult, lsrFlags, rolResult, rolFlags, rorResult, rorFlags,
      incResult, decResult, resultFlags, carryByte_setInert hf, setFlag_setInert hf,
      setNZ_setInert hf]

/-- The handler of an instruction that does not write the flag itself. -/
theorem impliedHandler_setInert {mn : Mnemonic} {h : State → State}
    (hm : impliedHandler mn = some h) (hclear : writtenFlag mn ≠ some (f, false))
    (hset : writtenFlag mn ≠ some (f, true)) (s : State) :
    h (setFlag f b s) = setFlag f b (h s) := by
  have other : ∀ {g c}, writtenFlag mn = some (g, c) → g ≠ f := by
    rintro g c hw rfl
    cases c <;> contradiction
  cases mn <;> cases hm
  case txs => rfl
  case clc | sec | cli | sei | clv | cld | sed => exact setFlag_comm (other rfl) b _ s
  all_goals
    simp [inx, iny, dex, dey, tax, tay, txa, tya, tsx, setNZ_setInert hf, setA_setFlag,
      setX_setFlag, setY_setFlag]

end

theorem storingValue_setFlag {mn : Mnemonic} {value : State → Byte}
    (hm : storingValue mn = some value) (f : Flag) (b : Bool) (s : State) :
    value (setFlag f b s) = value s := by
  cases mn <;> cases hm <;> rfl

/-! ### The same state with a flag set -/

/-- The second state is the first with the flag set to the value. -/
def WithFlag (f : Flag) (b : Bool) (s t : State) : Prop := t = setFlag f b s

theorem WithFlag.map {f : Flag} {b : Bool} {s t : State} (e : WithFlag f b s t) {g : State → State}
    (hg : ∀ s, g (setFlag f b s) = setFlag f b (g s)) : WithFlag f b (g s) (g t) := by
  obtain rfl := e; exact hg s

/-- The bus sees no flag. -/
theorem busRespects_withFlag (f : Flag) (b : Bool) : BusRespects (WithFlag f b) where
  x := by rintro s _ rfl; rfl
  y := by rintro s _ rfl; rfl
  sp := by rintro s _ rfl; rfl
  pc := by rintro s _ rfl; rfl
  params := by rintro s _ rfl; rfl
  charge n e := e.map (g := charge n) fun _ => rfl
  setSp v e := e.map (g := (State.setSp · v)) fun _ => rfl
  setPc v e := e.map (g := (State.setPc · v)) fun _ => rfl
  memRead := by
    rintro s _ addr rfl
    cases hm : mountAt s addr with
    | none =>
      rw [memRead_unmapped hm, memRead_unmapped (s := setFlag f b s) hm]
      exact .fault addr rfl
    | some m =>
      obtain ⟨v, t, h⟩ := memRead_mapped (mapped_of_mountAt hm)
      have same : t.p = s.p := (memRead_did h).1.p_eq
      rw [h, setFlag, memRead_setP _ h, ← same]
      exact .next ⟨rfl, rfl⟩
  memWrite := by
    rintro s _ addr v rfl
    cases hm : mountAt s addr with
    | none =>
      rw [memWrite_unmapped hm, memWrite_unmapped (s := setFlag f b s) hm]
      exact .fault addr rfl
    | some m =>
      obtain ⟨t, h⟩ := memWrite_mapped (mapped_of_mountAt hm) v
      have kept : t.withRegsOf (setFlag f b s) = setFlag f b t :=
        congrArg (setFlag f b) (memWrite_did h).1.withRegsOf
      rw [h, show memWrite addr v (setFlag f b s) = _ from memWrite_withRegsOf (setFlag f b s) h,
        kept]
      exact .next rfl

/-- Outcomes that correspond by setting the flag are the one with the flag set in the other. -/
theorem Alike.eq_mapOutcome {f : Flag} {b : Bool} {o o' : Out State}
    (h : Alike (WithFlag f b) (WithFlag f b) o o') : o' = mapOutcome (setFlag f b) o := by
  cases h with
  | next h => exact congrArg _ h
  | fault addr h => exact congrArg _ (congrArg _ h)
  | refused op h => exact congrArg _ (congrArg _ h)

section
variable {f : Flag} (hf : f.Inert) {b : Bool} {s t : State} (e : WithFlag f b s t)
include hf e

theorem addressHandler_withFlag {mn : Mnemonic} {h : Word → State → Out State}
    (hm : addressHandler mn = some h) (ea : Word) :
    Alike (WithFlag f b) (WithFlag f b) (h ea s) (h ea t) := by
  have bus := busRespects_withFlag f b
  have tested : ∀ {g : Flag}, g ≠ .d → g ≠ .i → flag g s = flag g t := by
    intro g hd hi
    obtain rfl := e
    exact (flag_setInert hf b hd hi s).symm
  cases mn <;> cases hm
  case jmp => exact .next (bus.setPc ea e)
  case jsr => exact bus.jumpSubroutine e ea
  case nop => exact .next e
  all_goals exact bus.branch e (tested (by decide) (by decide)) _ ea

/-- The handlers that make transactions and do not move P through the stack. -/
theorem systemHandler_withFlag {mn : Mnemonic} {h : State → Out State}
    (hm : systemHandler mn = some h) (hp : movesStatus mn = false) :
    Alike (WithFlag f b) (WithFlag f b) (h s) (h t) := by
  have bus := busRespects_withFlag f b
  cases mn <;> cases hm
  case rts => exact bus.returnFromSubroutine e
  case pha => obtain rfl := e; exact bus.push8 rfl s.a
  case pla =>
    exact (bus.pull8 e).bind fun v _ _ h1 =>
      .next (h1.map (readingHandler_setInert (mn := .lda) hf b rfl v))
  all_goals cases hp

/-- An instruction that neither writes the flag nor moves P through the stack does the same with
the flag set, shape by shape. -/
theorem exec_withFlag (i : Instr) (hp : movesStatus i.mnemonic = false)
    (hclear : writtenFlag i.mnemonic ≠ some (f, false))
    (hset : writtenFlag i.mnemonic ≠ some (f, true)) :
    Alike (WithFlag f b) (WithFlag f b) (exec i s) (exec i t) := by
  have bus := busRespects_withFlag f b
  have modifies : ∀ {mn res flags}, modifying mn = some (res, flags) →
      (∀ v s t, WithFlag f b s t → res v s = res v t) ∧
        ∀ v w s t, WithFlag f b s t → WithFlag f b (flags v w s) (flags v w t) := by
    intro mn res flags hm
    refine ⟨?_, fun v w _ _ h => h.map fun s => (modifying_setInert hf b hm v w s).2⟩
    rintro v s _ rfl
    exact (modifying_setInert hf b hm v v s).1.symm
  have reads : ∀ {mn hd}, readingHandler mn = some hd →
      ∀ v s t, WithFlag f b s t → WithFlag f b (hd v s) (hd v t) :=
    fun hm v _ _ h => h.map (readingHandler_setInert hf b hm v)
  rcases exec_shape i with ⟨hd, src, hm, hs⟩ | ⟨hd, src, hm, hs⟩ | ⟨v, m, hm, hs⟩ |
    ⟨res, fl, d, hm, hs⟩ | ⟨m1, m2, res, fl, hd, m, hm, h1, h2, hs⟩ | ⟨m, hm, hs⟩ | ⟨hd, hm⟩ |
    ⟨hm, hs⟩ | ⟨hd, m, hm, hs⟩ | ⟨hd, hm⟩ | hm
  · rw [exec_reading hm hs, exec_reading hm hs]
    exact bus.readOp e _ src (reads hm)
  · rw [exec_admitted hm hs, exec_admitted hm hs]
    exact bus.admittedOp e _ src fun v _ _ h => h.map (admittedHandler_setInert hf b hm v)
  · rw [exec_storing hm hs, exec_storing hm hs]
    refine bus.storeOp e _ m ?_
    rintro s _ rfl
    exact (storingValue_setFlag hm f b s).symm
  · rw [exec_modifying hm hs, exec_modifying hm hs]
    obtain ⟨hres, hflags⟩ := modifies hm
    refine bus.modifyOp e _ d hres hflags ?_
    rintro s _ rfl
    exact ⟨rfl, fun _ => rfl⟩
  · rw [exec_combining hm h1 h2 hs, exec_combining hm h1 h2 hs]
    obtain ⟨hres, hflags⟩ := modifies h1
    exact bus.combinedOp e _ m hres hflags (reads h2)
  · rw [exec_lax hm hs, exec_lax hm hs]
    exact bus.twoReadsOp e _ m (reads (mn := .lda) rfl) (reads (mn := .ldx) rfl)
  · rw [exec_implied hm, exec_implied hm]
    exact .next (bus.chargeBase (e.map (impliedHandler_setInert hf b hm hclear hset)) _)
  · rw [exec_nop hm hs, exec_nop hm hs]
    exact .next (bus.chargeBase e _)
  · rw [exec_address hm hs, exec_address hm hs]
    exact bus.addressOp e _ m fun ea _ _ h => addressHandler_withFlag hf h hm ea
  · rw [exec_system hm, exec_system hm]
    exact bus.systemOp e _ fun _ _ h => systemHandler_withFlag hf h hm hp
  · rw [exec_refused hm, exec_refused hm]
    exact .refused _ e

end

/-- Settles O17: every instruction does the same with the flag set; the NMI check reads the latch
and `cyc` alone. -/
theorem decimalAndInterruptFlagsAreInert : Obligations.DecimalAndInterruptFlagsAreInert := by
  unfold Obligations.DecimalAndInterruptFlagsAreInert
  exact ⟨fun _ i _ _ hf hp hclear hset => (exec_withFlag hf rfl i hp hclear hset).eq_mapOutcome,
    fun _ _ => rfl⟩

end Sys2Proof.Machine
end

section
/-! PROOFS. Arithmetic and logic (R130 to R136, R240, R241): O27, O28, O29, O30 and O31. -/

namespace Sys2Proof.Machine

/-! ### An instruction that reads its operand -/

/-- Reading an operand changes no register that a handler then computes with, and no flag. -/
theorem readSource_keeps {src : Source} {s s1 : State} {m : Byte}
    (hr : readSource src s = .next (m, s1)) : s1.a = s.a ∧ ∀ f, flag f s1 = flag f s := by
  obtain ⟨_, _, _, q, _⟩ := readSource_did hr
  exact ⟨q.a_eq, fun f => q.flag_eq f⟩

/-- What every instruction that reads its operand does, given its handler's frame: it completes, and
after the operand's read makes no transaction and charges its base cost. -/
theorem exec_reading_completes {i : Instr} {h : Byte → State → State} {src : Source}
    {s s1 : State} {m : Byte} {rs : List Reg} {fs : List Flag}
    (hm : readingHandler i.mnemonic = some h) (hs : operandSource i.operand = some src)
    (hr : readSource src s = .next (m, s1)) (hh : Handled rs fs s1 (h m s1)) :
    let t := chargeBase i.opcode (h m s1)
    exec i s = .next t ∧ Frame rs fs [] s t ∧ t.pc = s.pc ∧
      t.cyc = s1.cyc + baseCycles s.params i.opcode ∧ t.trace = s1.trace := by
  obtain ⟨_, _, _, q, d⟩ := readSource_did hr
  refine ⟨(exec_reading hm hs s).trans (readOp_eq hr), ?_, hh.pc.trans q.pc_eq, ?_, hh.did.trace⟩
  · exact (((readSource_within hr).trans hh.within).trans (within_chargeBase _ _)).frame
  · rw [chargeBase_cyc, hh.cyc, (d.trans hh.did).baseCycles_eq]

/-! ### Addition and subtraction -/

/-- Settles O27: the handler adds to the A and the carry that the operand's read leaves alone. -/
theorem adcAddsWithCarry : Obligations.AdcAddsWithCarry := by
  unfold Obligations.AdcAddsWithCarry
  intro i src s s1 m hmn hs hr
  obtain ⟨ha, hflag⟩ := readSource_keeps hr
  obtain ⟨hexec, rest⟩ := exec_reading_completes (by rw [hmn]; rfl) hs hr (adcWith_handled m s1)
  refine ⟨_, hexec, ?_, rest⟩
  rw [← ha, ← hflag]
  exact adcWith_shows m s1

/-- Settles O28: the same, subtracting. -/
theorem sbcSubtractsWithBorrow : Obligations.SbcSubtractsWithBorrow := by
  unfold Obligations.SbcSubtractsWithBorrow
  intro i src s s1 m hmn hs hr
  obtain ⟨ha, hflag⟩ := readSource_keeps hr
  obtain ⟨hexec, rest⟩ := exec_reading_completes (by rw [hmn]; rfl) hs hr (sbcWith_handled m s1)
  refine ⟨_, hexec, ?_, rest⟩
  rw [← ha, ← hflag]
  exact sbcWith_shows m s1

theorem complement_toNat (m : Byte) : (m ^^^ 0xFF).toNat = 255 - m.toNat := by
  rw [show m ^^^ 0xFF = ~~~m from BitVec.xor_allOnes, BitVec.toNat_not]

theorem complement_msb (m : Byte) : (m ^^^ 0xFF).getLsbD 7 = !m.getLsbD 7 := by simp

/-- The difference is the sum with the complement, less 256 (R131, R132). -/
theorem sbcDiff_eq_adcSum (m : Byte) (s : State) :
    sbcDiff m s = (adcSum (m ^^^ 0xFF) s : Int) - 256 := by
  have := m.isLt
  unfold sbcDiff adcSum
  rw [complement_toNat]
  omega

/-- A subtraction overflows where the addition of the complement does (R130). -/
theorem subtractOverflowed_eq_addOverflowed (a m r : Byte) :
    subtractOverflowed a m r = addOverflowed a (m ^^^ 0xFF) r := by
  unfold subtractOverflowed addOverflowed
  rw [complement_msb]
  cases a.getLsbD 7 <;> cases m.getLsbD 7 <;> cases r.getLsbD 7 <;> rfl

theorem sbcWith_eq_adcWith (m : Byte) (s : State) : sbcWith m s = adcWith (m ^^^ 0xFF) s := by
  have hdiff := sbcDiff_eq_adcSum m s
  have hresult : BitVec.ofInt 8 (sbcDiff m s) = BitVec.ofNat 8 (adcSum (m ^^^ 0xFF) s) := by
    apply BitVec.eq_of_toNat_eq
    rw [BitVec.toNat_ofInt, BitVec.toNat_ofNat, hdiff]
    omega
  have hcarry : decide (0 ≤ sbcDiff m s) = decide (255 < adcSum (m ^^^ 0xFF) s) :=
    decide_eq_decide.mpr (by omega)
  unfold sbcWith adcWith
  simp only [hresult, hcarry, subtractOverflowed_eq_addOverflowed]

/-- V of a binary sum is the overflow of the signed sum (R130, R131). -/
theorem adcWith_v (m : Byte) (s : State) :
    flag .v (adcWith m s) = decide (s.a.toInt + m.toInt + (flag .c s).toNat < -128 ∨
      127 < s.a.toInt + m.toInt + (flag .c s).toNat) := by
  obtain ⟨hsum, _, hv, _⟩ := adcWith_shows m s
  have hc : (flag .c s).toNat ≤ 1 := Bool.toNat_le _
  have := s.a.isLt
  have := m.isLt
  rw [hv, ← Bool.decide_and, hsum, BitVec.toInt_eq_toNat_cond, BitVec.toInt_eq_toNat_cond]
  generalize (flag .c s).toNat = c at *
  apply decide_eq_decide.mpr
  split <;> split <;> omega

/-- Settles O29: the complement turns the difference into a sum, and ADC shows V by the signs. -/
theorem subtractionIsComplementAddition : Obligations.SubtractionIsComplementAddition := by
  unfold Obligations.SubtractionIsComplementAddition
  exact fun m s => ⟨sbcWith_eq_adcWith m s, adcWith_v m s⟩

/-! ### Logic -/

/-- AND, ORA and EOR load A with their result. -/
theorem logicHandler_eq_ldaWith {mn : Mnemonic} {a m r : Byte} (hr : logicResult mn a m = some r) :
    ∃ h, readingHandler mn = some h ∧ ∀ s : State, s.a = a → h m s = ldaWith r s := by
  cases mn <;> cases hr <;> exact ⟨_, rfl, by rintro s rfl; rfl⟩

/-- Settles O30: the logic instructions as loads of their result; AAC in its immediate forms, which
read their operand without changing the state. -/
theorem logicCombinesWithAccumulator : Obligations.LogicCombinesWithAccumulator := by
  unfold Obligations.LogicCombinesWithAccumulator
  refine ⟨fun i src s s1 m r hres hs hr => ?_, fun i imm s hmn himm => ?_⟩
  · obtain ⟨h, hm, heq⟩ := logicHandler_eq_ldaWith hres
    have hload : h m s1 = ldaWith r s1 := heq s1 (readSource_keeps hr).1
    obtain ⟨hexec, rest⟩ := exec_reading_completes hm hs hr (hload ▸ ldaWith_handled r s1)
    rw [hload] at hexec rest
    exact ⟨_, hexec, rfl, setNZ_shows r _, rest⟩
  · have hs : operandSource i.operand = some (.imm imm) := by rw [himm]; rfl
    have hr : readSource (.imm imm) s = .next (imm, s) := rfl
    obtain ⟨hexec, rest⟩ := exec_reading_completes (by rw [hmn]; rfl) hs hr (aacWith_handled imm s)
    refine ⟨_, hexec, rfl, ?_, ?_, rest⟩
    · apply showsNZ_of <;> simp [aacWith, andWith, flag_setFlag]
    · rw [← getLsbD_seven]
      exact flag_setFlag_same _ _ _

/-! ### BIT -/

/-- The flags of BIT (R136). -/
theorem bitWith_shows (m : Byte) (s : State) :
    flag .z (bitWith m s) = decide (s.a &&& m = 0) ∧
      flag .v (bitWith m s) = decide (64 ≤ m.toNat % 128) ∧
      flag .n (bitWith m s) = decide (128 ≤ m.toNat) := by
  rw [← bit6_toNat, ← getLsbD_seven]
  simp [bitWith, flag_setFlag, beq_eq_decide]

/-- Settles O31: the handler's flags, with the A that the operand's read leaves alone. -/
theorem bitTestsOperand : Obligations.BitTestsOperand := by
  unfold Obligations.BitTestsOperand
  intro i src s s1 m hmn hs hr
  obtain ⟨hexec, rest⟩ := exec_reading_completes (by rw [hmn]; rfl) hs hr (bitWith_handled m s1)
  obtain ⟨hz, hv, hn⟩ := bitWith_shows m s1
  rw [(readSource_keeps hr).1] at hz
  exact ⟨_, hexec, hz, hv, hn, rest⟩

end Sys2Proof.Machine
end

section
/-! PROOFS. Shifts and rotates (R140 to R144): O38. -/

namespace Sys2Proof.Machine

/-! ### Read-modify-write instructions, given the frame of their flags -/

/-- A read-modify-write on the accumulator completes without a transaction. -/
theorem exec_modifying_acc_completes {i : Instr} {res : Byte → State → Byte}
    {f : Byte → Byte → State → State} {s : State} {fs : List Flag}
    (hm : modifying i.mnemonic = some (res, f)) (hacc : i.operand = .accumulator)
    (hh : ∀ u, Handled [] fs u (f s.a (res s.a s) u)) :
    let t := chargeBase i.opcode (f s.a (res s.a s) (s.setA (res s.a s)))
    exec i s = .next t ∧ t.a = res s.a s ∧ Frame [.a] fs [] s t ∧ t.pc = s.pc ∧
      t.cyc = s.cyc + baseCycles s.params i.opcode ∧ t.trace = s.trace := by
  have h := hh (s.setA (res s.a s))
  have hA : Within [.a] fs [] s (s.setA (res s.a s)) :=
    ⟨by apply regsKept_of <;> simp, fun _ _ => rfl, _, Did.setA s _⟩
  have hflags := h.within.mono (List.nil_subset [.a]) (List.Subset.refl _)
  refine ⟨exec_modifying (d := .acc) hm (by rw [hacc]; rfl) s, h.regs .a (by simp),
    ((hA.trans hflags).trans (within_chargeBase _ _)).frame, h.pc, ?_, h.did.trace⟩
  rw [chargeBase_cyc, h.cyc, h.did.baseCycles_eq, State.setA_cyc, State.setA_params]

/-- A read-modify-write on memory whose read answers completes: one read, one write of the result
at the same address, and then the flags, from the state `u` that the write leaves. -/
theorem exec_modifying_mem_completes {i : Instr} {res : Byte → State → Byte}
    {f : Byte → Byte → State → State} {m : AddrMode} {s s1 s2 : State} {ea : Word} {v w : Byte}
    {fs : List Flag} (hm : modifying i.mnemonic = some (res, f))
    (hmode : operandMode i.operand = some m) (hres : resolve m s = .next (ea, s1))
    (hread : memRead ea s1 = .next (v, s2)) (hw : res v s2 = w)
    (hh : ∀ u, Handled [] fs u (f v w u)) :
    ∃ u, let t := chargeBase i.opcode (f v w u)
      exec i s = .next t ∧
      (s.mem.wf = true → (cellOf s ea).isSome = true → ChipsLeave s ea →
        ramByte t ea = some w) ∧
      Frame [] fs [ea] s t ∧ t.pc = s.pc ∧
      t.cyc = s1.cyc + baseCycles s.params i.opcode ∧
      t.trace = .wr ea w :: .rd ea :: s1.trace := by
  subst hw
  obtain ⟨u, hwrite, hmodify⟩ := modifyAt_mem (result := res) (flags := f) hread
  obtain ⟨_, _, _, qres, dres⟩ := resolve_did hres
  obtain ⟨qread, dread, _⟩ := memRead_did hread
  obtain ⟨qwrite, dwrite, hram⟩ := memWrite_did hwrite
  have h := hh u
  have dbefore := dres.trans dread
  have dbus := dbefore.trans dwrite
  have dflags := h.did.trans (Did.chargeBase (f v (res v s2) u) i.opcode)
  refine ⟨u, ?_, fun hwf hcell hleave => ?_, ?_, ?_, ?_, ?_⟩
  · rw [exec_modifying hm (operandDest_of_mode hmode)]
    simp only [modifyOp, resolveDest, hres, hmodify, andThen_next]
  · rw [dflags.ramByte_eq (dbus.chipsLeave hleave)]
    exact hram (dbefore.wf hwf) (by rwa [dbefore.cellOf_eq]) ea rfl (dbefore.chipsLeave hleave)
  · have hbus : Within [] fs [ea] s u :=
      ((resolve_within hres).trans (memRead_within hread)).trans (memWrite_within hwrite)
    exact ((hbus.trans h.within).trans (within_chargeBase _ _)).frame
  · calc (f v (res v s2) u).pc = u.pc := h.pc
      _ = s2.pc := qwrite.pc_eq
      _ = s1.pc := qread.pc_eq
      _ = s.pc := qres.pc_eq
  · rw [chargeBase_cyc, h.cyc, qwrite.cyc_eq, qread.cyc_eq, (dbus.trans h.did).baseCycles_eq]
  · rw [dflags.trace, dwrite.trace, dread.trace]
    rfl

/-! ### The four shifts -/

/-- The carry as a byte, as the rotates bring it in. -/
theorem carryByte_eq {s : State} {c : Bool} (h : flag .c s = c) :
    carryByte s = if c then 1 else 0 := by
  rw [← h]; rfl

/-- The result of a shift has the number its rule gives, from the operand and the old carry; its
flags are C, the bit shifted off, and then N and Z of the result (R141 to R144). -/
theorem modifying_of_shift {mn : Mnemonic} {v : Byte} {old c : Bool} {r : Nat}
    (hr : shiftedNat mn v.toNat old.toNat = some r) (hc : shiftedOff mn v.toNat = some c) :
    ∃ res f, modifying mn = some (res, f) ∧ (∀ s, flag .c s = old → (res v s).toNat = r) ∧
      ∀ w u, f v w u = setNZ w (setFlag .c c u) := by
  cases mn <;> cases hr <;> cases hc
  case asl =>
    refine ⟨_, _, rfl, fun s _ => shiftLeft_toNat v, fun w u => ?_⟩
    rw [← getLsbD_seven, aslFlags]
  case lsr =>
    refine ⟨_, _, rfl, fun s _ => shiftRight_toNat v, fun w u => ?_⟩
    rw [← bit0_toNat, lsrFlags]
  case rol =>
    refine ⟨_, _, rfl, fun s hs => ?_, fun w u => ?_⟩
    · rw [rolResult, carryByte_eq hs, rotateLeft_toNat]
    · rw [← getLsbD_seven, rolFlags]
  case ror =>
    refine ⟨_, _, rfl, fun s hs => ?_, fun w u => ?_⟩
    · rw [rorResult, carryByte_eq hs, rotateRight_toNat]
    · rw [← bit0_toNat, rorFlags]

/-- The flags of a shift: C is the bit shifted off, which setting N and Z leaves, and N and Z are
those of the result. -/
theorem shiftFlags_show (c : Bool) (w : Byte) (u : State) :
    flag .c (setNZ w (setFlag .c c u)) = c ∧ ShowsNZ w (setNZ w (setFlag .c c u)) :=
  ⟨by rw [flag_setNZ_of_ne (by decide) (by decide), flag_setFlag_same], setNZ_shows w _⟩

/-- Settles O38: both forms are read-modify-writes with the results and flags of the shifts; in the
memory form the carry is the old one still, which the resolution and the read leave alone. -/
theorem shiftsAndRotates : Obligations.ShiftsAndRotates := by
  unfold Obligations.ShiftsAndRotates
  refine ⟨fun i s r c hacc hr hc => ?_,
    fun i m s s1 s2 ea v r c hmode hres hread hr hc => ?_⟩
  · obtain ⟨res, f, hm, hresult, hf⟩ := modifying_of_shift hr hc
    obtain ⟨hexec, ha, rest⟩ := exec_modifying_acc_completes hm hacc
      fun u => (hf _ u).symm ▸ shiftFlags_handled c (res s.a s) u
    obtain ⟨hcarry, hnz⟩ := shiftFlags_show c (res s.a s) (s.setA (res s.a s))
    rw [← hf] at hcarry hnz
    have hnum := (congrArg BitVec.toNat ha).trans (hresult s rfl)
    exact ⟨_, hexec, hnum, hcarry, by rwa [ha], rest⟩
  · obtain ⟨res, f, hm, hresult, hf⟩ := modifying_of_shift hr hc
    obtain ⟨_, _, _, qres, _⟩ := resolve_did hres
    obtain ⟨qread, _⟩ := memRead_did hread
    have hold : flag .c s2 = flag .c s := (qread.flag_eq .c).trans (qres.flag_eq .c)
    have hbyte : res v s2 = BitVec.ofNat 8 r := by
      rw [← hresult s2 hold, BitVec.ofNat_toNat, BitVec.setWidth_eq]
    obtain ⟨u, hexec, hram, rest⟩ := exec_modifying_mem_completes hm hmode hres hread hbyte
      fun u => (hf _ u).symm ▸ shiftFlags_handled c (BitVec.ofNat 8 r) u
    obtain ⟨hcarry, hnz⟩ := shiftFlags_show c (BitVec.ofNat 8 r) u
    rw [← hf] at hcarry hnz
    exact ⟨_, hexec, hcarry, hnz, hram, rest⟩

end Sys2Proof.Machine
end

section
/-! PROOFS. Compares, increments, decrements and register transfers (R150 to R159, R171 to R176):
O32, O39 and O40. -/

namespace Sys2Proof.Machine

/-! ### Compares -/

/-- A compare's handler compares its own register with the operand (R151 to R153). -/
theorem compareHandler_eq_compareWith {mn : Mnemonic} {r : Reg} (hreg : comparedReg mn = some r) :
    ∃ h, readingHandler mn = some h ∧ ∀ m s, h m s = compareWith (r.get s) m s := by
  cases mn <;> cases hreg <;> exact ⟨_, rfl, fun _ _ => rfl⟩

/-- Settles O32: the handler compares the register, which the operand's read leaves alone. -/
theorem compareSetsFlagsOnly : Obligations.CompareSetsFlagsOnly := by
  unfold Obligations.CompareSetsFlagsOnly
  intro i src s s1 m r hreg hs hr
  obtain ⟨h, hm, heq⟩ := compareHandler_eq_compareWith hreg
  have hread : Within [] [] [] s s1 := readSource_within hr
  have hcompare : h m s1 = compareWith (r.get s) m s1 := by
    rw [heq, hread.regs r List.not_mem_nil]
  obtain ⟨hexec, rest⟩ := exec_reading_completes hm hs hr (hcompare ▸ compareWith_handled _ m s1)
  rw [hcompare] at hexec rest
  exact ⟨_, hexec, compareWith_shows _ m s1, rest⟩

/-! ### Plus and minus 1 -/

theorem byteSucc_toNat (v : Byte) : (v + 1).toNat = (v.toNat + 1) % 256 := BitVec.toNat_add v 1

theorem bytePred_toNat (v : Byte) : (v - 1).toNat = (v.toNat + 255) % 256 := by
  rw [BitVec.toNat_sub, Nat.add_comm]
  rfl

/-- INC and DEC are read-modify-writes whose result is the byte plus or minus 1 and whose flags are
those of the result alone (R154, R155). -/
theorem modifying_of_increment {mn : Mnemonic} {v r : Byte}
    (h : (mn = .inc ∧ r.toNat = (v.toNat + 1) % 256) ∨
      (mn = .dec ∧ r.toNat = (v.toNat + 255) % 256)) :
    ∃ res, modifying mn = some (res, resultFlags) ∧ ∀ s, res v s = r := by
  rcases h with ⟨rfl, hr⟩ | ⟨rfl, hr⟩
  · exact ⟨_, rfl, fun _ => BitVec.eq_of_toNat_eq ((byteSucc_toNat v).trans hr.symm)⟩
  · exact ⟨_, rfl, fun _ => BitVec.eq_of_toNat_eq ((bytePred_toNat v).trans hr.symm)⟩

/-- Settles O39: a read-modify-write on memory whose flags are N and Z of its result. -/
theorem memoryIncrementAndDecrement : Obligations.MemoryIncrementAndDecrement := by
  unfold Obligations.MemoryIncrementAndDecrement
  intro i m s s1 s2 ea v r hi hmode hres hread
  obtain ⟨res, hm, hresult⟩ := modifying_of_increment hi
  obtain ⟨u, hexec, rest⟩ :=
    exec_modifying_mem_completes hm hmode hres hread (hresult s2) (setNZ_handled r)
  exact ⟨_, hexec, setNZ_shows r u, rest⟩

/-! ### Implied moves -/

/-- What every instruction without operand and transaction does, given its handler's frame: it
completes and charges its base cost. -/
theorem exec_implied_completes {i : Instr} {h : State → State} {s : State} {rs : List Reg}
    {fs : List Flag} (hm : impliedHandler i.mnemonic = some h) (hh : Handled rs fs s (h s)) :
    let t := chargeBase i.opcode (h s)
    exec i s = .next t ∧ Frame rs fs [] s t ∧ t.pc = s.pc ∧
      t.cyc = s.cyc + baseCycles s.params i.opcode ∧ t.trace = s.trace := by
  refine ⟨exec_implied hm s, (hh.within.trans (within_chargeBase _ _)).frame, hh.pc, ?_,
    hh.did.trace⟩
  rw [chargeBase_cyc, hh.cyc, hh.did.baseCycles_eq]

/-- The tables name for a move the one register it writes, with N and Z. -/
theorem movedReg_tables {mn : Mnemonic} {s : State} {r : Reg} {n : Nat}
    (hmove : movedReg mn s = some (r, n)) :
    writtenRegs mn = [r] ∧ writtenFlags mn = [.z, .n] := by
  cases mn <;> cases hmove <;> exact ⟨rfl, rfl⟩

/-- The handler of a move leaves in its register the number of its rule, and N and Z of that value
(R156 to R159, R171 to R175). -/
theorem moveHandler_shows {mn : Mnemonic} {s : State} {r : Reg} {n : Nat}
    (hmove : movedReg mn s = some (r, n)) :
    ∃ h, impliedHandler mn = some h ∧ (r.get (h s)).toNat = n ∧ ShowsNZ (r.get (h s)) (h s) := by
  cases mn <;> cases hmove
  case inx | iny => exact ⟨_, rfl, byteSucc_toNat _, setNZ_shows _ _⟩
  case dex | dey => exact ⟨_, rfl, bytePred_toNat _, setNZ_shows _ _⟩
  case tax | tay | txa | tya | tsx => exact ⟨_, rfl, rfl, setNZ_shows _ _⟩

/-- Settles O40: a move's handler stays within its tables and shows its value; TXS, whose handler
sets SP alone, has no flag in its table. -/
theorem registerMoves : Obligations.RegisterMoves := by
  unfold Obligations.RegisterMoves
  refine ⟨fun i s r n hmove => ?_, fun s => ?_⟩
  · obtain ⟨h, hm, hvalue, hnz⟩ := moveHandler_shows hmove
    obtain ⟨hregs, hflags⟩ := movedReg_tables hmove
    have hhandled : Handled [r] [.n, .z] s (h s) :=
      (impliedHandler_handled hm s).weaken (by simp [hregs]) (by simp [hflags])
    obtain ⟨hexec, rest⟩ := exec_implied_completes hm hhandled
    have hget : r.get (chargeBase i.opcode (h s)) = r.get (h s) := by cases r <;> rfl
    exact ⟨_, hexec, by rwa [hget], by rwa [hget], rest⟩
  · have htxs : impliedHandler (Instr.txs).mnemonic = some txs := rfl
    obtain ⟨hexec, rest⟩ := exec_implied_completes htxs (impliedHandler_handled htxs s)
    exact ⟨_, hexec, rfl, rest⟩

end Sys2Proof.Machine
end

section
/-! PROOFS. Loads and stores (R165 to R170, R232): O33 and O34. -/

namespace Sys2Proof.Machine

/-! ### Loads -/

/-- A load's handler leaves the operand in its own register with N and Z of it, and changes nothing
else (R165 to R167). -/
theorem loadHandler_shows {mn : Mnemonic} {r : Reg} (hreg : loadedReg mn = some r) :
    ∃ h, readingHandler mn = some h ∧ ∀ m s, r.get (h m s) = m ∧ ShowsNZ m (h m s) ∧
      Handled [r] [.n, .z] s (h m s) := by
  cases mn <;> cases hreg
  case lda => exact ⟨_, rfl, fun m s => ⟨rfl, setNZ_shows m _, ldaWith_handled m s⟩⟩
  case ldx => exact ⟨_, rfl, fun m s => ⟨rfl, setNZ_shows m _, ldxWith_handled m s⟩⟩
  case ldy => exact ⟨_, rfl, fun m s => ⟨rfl, setNZ_shows m _, ldyWith_handled m s⟩⟩

theorem reg_get_chargeBase (r : Reg) (op : Byte) (s : State) :
    r.get (chargeBase op s) = r.get s := by
  cases r <;> rfl

/-- Settles O33: the handler loads its register with the byte that the operand's read answers. -/
theorem loadWritesRegister : Obligations.LoadWritesRegister := by
  unfold Obligations.LoadWritesRegister
  intro i src s s1 m r hreg hs hr
  obtain ⟨h, hm, hload⟩ := loadHandler_shows hreg
  obtain ⟨hget, hnz, hhandled⟩ := hload m s1
  obtain ⟨hexec, rest⟩ := exec_reading_completes hm hs hr hhandled
  exact ⟨_, hexec, (reg_get_chargeBase r _ _).trans hget, hnz, rest⟩

/-! ### Stores -/

/-- A store's value is the byte of its rule, computed from registers that its resolution leaves
alone (R168 to R170, R232). -/
theorem storingValue_of_storedByte {mn : Mnemonic} {s : State} {v : Byte}
    (hv : storedByte mn s = some v) :
    ∃ value, storingValue mn = some value ∧ ∀ t, RegsKept [] s t → value t = v := by
  cases mn <;> cases hv
  case sta => exact ⟨_, rfl, fun _ kept => kept .a List.not_mem_nil⟩
  case stx => exact ⟨_, rfl, fun _ kept => kept .x List.not_mem_nil⟩
  case sty => exact ⟨_, rfl, fun _ kept => kept .y List.not_mem_nil⟩
  case sax =>
    exact ⟨_, rfl, fun _ kept =>
      congrArg₂ (· &&& ·) (kept .a List.not_mem_nil) (kept .x List.not_mem_nil)⟩

/-- A store whose resolved address is mapped completes: one write there after the resolution, no
read of the cell, no register and no flag. -/
theorem exec_storing_completes {i : Instr} {value : State → Byte} {m : AddrMode} {s s1 : State}
    {ea : Word} {v : Byte} (hm : storingValue i.mnemonic = some value)
    (hmode : operandMode i.operand = some m) (hres : resolve m s = .next (ea, s1))
    (hmap : Mapped s ea) (hv : value s1 = v) :
    ∃ t, exec i s = .next t ∧
      (s.mem.wf = true → (cellOf s ea).isSome = true → ChipsLeave s ea → ramByte t ea = some v) ∧
      Frame [] [] [ea] s t ∧ t.pc = s.pc ∧
      t.cyc = s1.cyc + baseCycles s.params i.opcode ∧ t.trace = .wr ea v :: s1.trace := by
  subst hv
  obtain ⟨_, _, _, qres, dres⟩ := resolve_did hres
  obtain ⟨u, hwrite⟩ := memWrite_mapped (dres.mapped hmap) (value s1)
  obtain ⟨qwrite, dwrite, hram⟩ := memWrite_did hwrite
  refine ⟨chargeBase i.opcode u, (exec_storing hm hmode s).trans (storeOp_eq hres hwrite),
    fun hwf hcell hleave => hram (dres.wf hwf) ?_ ea rfl (dres.chipsLeave hleave), ?_,
    qwrite.pc_eq.trans qres.pc_eq, ?_, dwrite.trace⟩
  · rwa [dres.cellOf_eq]
  · exact (((resolve_within hres).trans (memWrite_within hwrite)).trans
      (within_chargeBase _ _)).frame
  · rw [chargeBase_cyc, qwrite.cyc_eq, (dres.trans dwrite).baseCycles_eq]

/-- Settles O34: the stored byte is that of the registers before the resolution, which keeps them. -/
theorem storeWritesOneByte : Obligations.StoreWritesOneByte := by
  unfold Obligations.StoreWritesOneByte
  intro i m s s1 ea v hstored hmode hres hmap
  obtain ⟨value, hm, hvalue⟩ := storingValue_of_storedByte hstored
  have hkept : Within [] [] [] s s1 := resolve_within hres
  exact exec_storing_completes hm hmode hres hmap (hvalue s1 hkept.regs)

end Sys2Proof.Machine
end

section
/-! PROOFS. Branches, jumps, calls and returns (R185 to R196, R220, R221, R288): O43 to O47. -/

namespace Sys2Proof.Machine

/-! ### Instructions by what their handler answers -/

/-- An instruction that uses its effective address is its handler, then the base cost. -/
theorem exec_address_completes {i : Instr} {h : Word → State → Out State} {m : AddrMode}
    {s s1 u : State} {ea : Word} (hm : addressHandler i.mnemonic = some h)
    (hmode : operandMode i.operand = some m) (hres : resolve m s = .next (ea, s1))
    (hh : h ea s1 = .next u) : exec i s = .next (chargeBase i.opcode u) := by
  simp only [exec_address hm hmode, addressOp, hres, hh, andThen_next]

/-- An instruction without operand that makes transactions is its handler, then the base cost. -/
theorem exec_system_completes {i : Instr} {h : State → Out State} {s u : State}
    (hm : systemHandler i.mnemonic = some h) (hh : h s = .next u) :
    exec i s = .next (chargeBase i.opcode u) := by
  simp only [exec_system hm, systemOp, hh, andThen_next]

/-! ### Branches -/

/-- The cycles of a taken branch, by the pages as numbers (R185). -/
theorem branchExtra_eq (target : Word) (s : State) :
    branchExtra target s = if target.toNat / 256 = s.pc.toNat / 256 then 1 else 2 := by
  simp only [branchExtra, page_ne_iff, ite_not]

/-- The flag and the value that the rules name for a branch are those its handler tests. -/
theorem addressHandler_of_branchTest {mn : Mnemonic} {f : Flag} {b : Bool}
    (h : branchTest mn = some (f, b)) : addressHandler mn = some (branch f b) := by
  cases mn <;> cases h <;> rfl

/-- The relative mode answers the address that is the offset from PC, mod 65536 (R114). -/
theorem resolve_rel_eq {s : State} {off : Byte} {target : Word}
    (h : (target.toNat : Int) = ((s.pc.toNat : Int) + off.toInt) % 65536) :
    resolve (.rel off) s = .next (target, s) := by
  have hnum : (s.pc + sext16 off).toNat = target.toNat := by
    exact_mod_cast (relative_toNat s.pc off).trans h.symm
  rw [resolve, BitVec.eq_of_toNat_eq hnum]

/-- Settles O43: the handler branches on its flag and value; a taken branch charges by the pages. -/
theorem branchesTestOneFlag : Obligations.BranchesTestOneFlag := by
  unfold Obligations.BranchesTestOneFlag
  intro i s off f b target htest hoperand htarget
  have hexec : ∀ {u}, branch f b target s = .next u → exec i s = .next (chargeBase i.opcode u) :=
    exec_address_completes (addressHandler_of_branchTest htest) (by rw [hoperand]; rfl)
      (resolve_rel_eq htarget)
  refine ⟨fun htaken => ?_, fun huntaken => hexec (if_neg huntaken)⟩
  rw [hexec (if_pos htaken), branchExtra_eq]
  rfl

/-! ### JMP -/

/-- Settles O44: the handler sets PC; the resolution before it changes no parameter. -/
theorem jumpLoadsPc : Obligations.JumpLoadsPc := by
  unfold Obligations.JumpLoadsPc
  intro i m s s1 ea hmn hmode hres
  obtain ⟨_, _, _, _, d⟩ := resolve_did hres
  rw [exec_address_completes (h := jump) (by rw [hmn]; rfl) hmode hres rfl, ← d.baseCycles_eq]
  rfl

/-! ### JSR and RTS -/

/-- JSR is the push of its return address, then PC and the base cost (R195). -/
theorem exec_jsr_eq {s u : State} (h : push16 (s.pc - 1) s = .next u) (addr : Word) :
    exec (.jsr addr) s = .next (chargeBase 0x20 (u.setPc addr)) :=
  exec_address_completes (m := .abs addr) rfl rfl rfl
    (by simp only [jumpSubroutine, h, andThen_next])

/-- RTS is the pull of a return address, then PC past it and the base cost (R196). -/
theorem exec_rts_eq {s u : State} {ret : Word} (h : pull16 s = .next (ret, u)) :
    exec .rts s = .next (chargeBase 0x60 (u.setPc (ret + 1))) :=
  exec_system_completes rfl (by simp only [returnFromSubroutine, h, andThen_next])

/-- The stored addresses may be listed in another order, and with others. -/
theorem Did.mono_stored {ops : List BusOp} {l l' : List Word} {s t : State} (d : Did ops l s t)
    (hl : l ⊆ l') : Did ops l' s t :=
  { d with stored := fun addr hne => d.stored addr fun e he => hne e (hl he) }

/-- Stack transactions, then PC and the base cost: the frame and the cycles. -/
theorem frame_cyc_of_stack {ops : List BusOp} {l : List Word} {s u : State} {sp : Byte}
    (q : Quiet (s.setSp sp) u) (d : Did ops l s u) (pc : Word) (op : Byte) :
    Frame [.sp] [] l s (chargeBase op (u.setPc pc)) ∧
      (chargeBase op (u.setPc pc)).cyc = s.cyc + baseCycles s.params op := by
  refine ⟨(((q.within_sp d).trans (within_setPc pc u)).trans (within_chargeBase _ _)).frame, ?_⟩
  rw [chargeBase_cyc, State.setPc_cyc, State.setPc_params, d.baseCycles_eq, q.cyc_eq,
    State.setSp_cyc]

/-- Settles O45: the push makes the two writes; PC and the base cost follow. -/
theorem jsrPushesReturnAddress : Obligations.JsrPushesReturnAddress := by
  unfold Obligations.JsrPushesReturnAddress
  intro s addr r hr hmap hmap'
  obtain rfl : r = s.pc - 1 := by bv_omega
  obtain ⟨u, hpush⟩ := push16_mapped hmap hmap' (s.pc - 1)
  obtain ⟨q, d, hram⟩ := push16_did hpush
  have dswap := d.mono_stored (l' := [stackAddr s s.sp, stackAddr s (s.sp - 1)])
    (List.Perm.swap _ _ _).subset
  obtain ⟨hframe, hcyc⟩ := frame_cyc_of_stack q dswap addr 0x20
  exact ⟨_, exec_jsr_eq hpush addr, rfl, q.sp_eq, hram, hframe, hcyc, d.trace⟩

/-- Settles O46: the pull makes the two reads, the second after the first; PC and the base cost
follow. -/
theorem rtsReturns : Obligations.RtsReturns := by
  unfold Obligations.RtsReturns
  intro s hmap hmap'
  obtain ⟨lo, s1, hlow⟩ := memRead_mapped hmap
  obtain ⟨_, d1, hlo⟩ := memRead_did hlow
  obtain ⟨hi, u, hhigh⟩ := memRead_mapped (d1.mapped hmap')
  obtain ⟨_, _, hhi⟩ := memRead_did hhigh
  have hreads : transact [.rd (stackAddr s (s.sp + 1)), .rd (stackAddr s (s.sp + 2))] s =
      .next ([lo, hi], u) :=
    transact_rd_cons.mpr ⟨s1, hlow, transact_rd_cons.mpr ⟨u, hhigh, rfl⟩⟩
  have hpull := pull16_eq hlow hhigh
  obtain ⟨q, d, _⟩ := pull16_did hpull
  obtain ⟨hframe, hcyc⟩ := frame_cyc_of_stack q d (wordOf hi lo + 1) 0x60
  refine ⟨lo, hi, u, _, hreads, exec_rts_eq hpull, ?_, hlo, fun hleave b hb => ?_, rfl, hframe,
    hcyc, rfl, d.trace⟩
  · rw [chargeBase_pc, State.setPc_pc, BitVec.toNat_add, wordOf_toNat]
    rfl
  · exact hhi b ((d1.ramByte_eq hleave).trans hb)

/-! ### Calls whose bytes go to RAM, and the returns that pull them -/

/-- JSR onto a stack in canonical RAM that no other chip changes meanwhile leaves its return address
there, at the two addresses above its new SP (R195). -/
theorem exec_jsr_ram {s : State} (addr : Word) (hwf : s.mem.wf = true)
    (hcells : DistinctCells s (stackAddr s s.sp) (stackAddr s (s.sp - 1)))
    (hleave : ChipsLeave s (stackAddr s s.sp)) (hleave' : ChipsLeave s (stackAddr s (s.sp - 1))) :
    ∃ t, exec (.jsr addr) s = .next t ∧ t.sp = s.sp - 2 ∧ t.p = s.p ∧
      ramByte t (stackAddr t (s.sp - 1)) = some (lowByte (s.pc - 1)) ∧
      ramByte t (stackAddr t s.sp) = some (highByte (s.pc - 1)) ∧
      ChipsLeave t (stackAddr t s.sp) := by
  have ⟨hcell, hcell', _⟩ := hcells
  obtain ⟨u, hpush⟩ := push16_mapped (mapped_of_cell hcell) (mapped_of_cell hcell') (s.pc - 1)
  obtain ⟨q, dpush, hram⟩ := push16_did hpush
  obtain ⟨hhigh, hlow⟩ := hram hwf hcells
  have d := (dpush.trans (Did.setPc u addr)).trans (Did.chargeBase _ 0x20)
  refine ⟨_, exec_jsr_eq hpush addr, q.sp_eq, q.p_eq, ?_, ?_, ?_⟩ <;> rw [d.stackAddr_eq]
  · exact hlow hleave'
  · exact hhigh hleave
  · exact d.chipsLeave hleave

/-- RTS from a return address in RAM that no other chip changes meanwhile (R196). -/
theorem exec_rts_ram {s : State} {ret : Word}
    (hlow : ramByte s (stackAddr s (s.sp + 1)) = some (lowByte ret))
    (hhigh : ramByte s (stackAddr s (s.sp + 2)) = some (highByte ret))
    (hleave : ChipsLeave s (stackAddr s (s.sp + 2))) :
    ∃ t, exec .rts s = .next t ∧ t.pc = ret + 1 ∧ t.sp = s.sp + 2 ∧ t.p = s.p := by
  obtain ⟨_, u, hpull⟩ := pull16_mapped (mapped_of_cell (cell_of_ramByte hlow))
    (mapped_of_cell (cell_of_ramByte hhigh))
  obtain ⟨q, _, hi, lo, rfl, hlo, hhi⟩ := pull16_did hpull
  rw [hlo _ hlow, hhi hleave _ hhigh, wordOf_bytes] at hpull
  exact ⟨_, exec_rts_eq hpull, rfl, q.sp_eq, q.p_eq⟩

/-- BRK onto a stack in canonical RAM that no other chip changes meanwhile leaves P and its return
address there, at the three addresses above its new SP (R220). -/
theorem exec_brk_ram {s : State} (hwf : s.mem.wf = true) (hstack : StackInRam s)
    (hleave : ∀ sp, ChipsLeave s (stackAddr s sp)) (hvec : Mapped s 0xFFFE)
    (hvec' : Mapped s 0xFFFF) :
    ∃ t, exec .brk s = .next t ∧ t.sp = s.sp - 3 ∧
      ramByte t (stackAddr t (s.sp - 2)) = some (pushedBySoftware s.p) ∧
      ramByte t (stackAddr t (s.sp - 1)) = some (lowByte (s.pc + 1)) ∧
      ramByte t (stackAddr t s.sp) = some (highByte (s.pc + 1)) ∧
      ∀ sp, ChipsLeave t (stackAddr t sp) := by
  have hmap : ∀ sp, Mapped s (stackAddr s sp) := fun sp => mapped_of_cell (hstack.1 sp)
  obtain ⟨u, hentry⟩ := trapEntry_mapped (ret := s.pc + 1) (p := pushedBySoftware s.p)
    (hmap s.sp) (hmap _) (hmap _) hvec hvec'
  obtain ⟨_, _, q, dentry, _, _, hram⟩ := trapEntry_did hentry
  obtain ⟨hhigh, hlow, hp⟩ := hram hwf hstack hleave
  have d := dentry.trans (Did.chargeBase u Instr.brk.opcode)
  refine ⟨_, exec_system_completes rfl hentry, q.sp_eq, ?_, ?_, ?_, fun sp => ?_⟩ <;>
    rw [d.stackAddr_eq]
  · exact hp
  · exact hlow
  · exact hhigh
  · exact d.chipsLeave (hleave sp)

/-- RTI from a P and a return address in RAM that no other chip changes meanwhile (R221). -/
theorem exec_rti_ram {s : State} {p : Byte} {ret : Word}
    (hp : ramByte s (stackAddr s (s.sp + 1)) = some p)
    (hlow : ramByte s (stackAddr s (s.sp + 2)) = some (lowByte ret))
    (hhigh : ramByte s (stackAddr s (s.sp + 3)) = some (highByte ret))
    (hleave : ∀ sp, ChipsLeave s (stackAddr s sp)) :
    ∃ t, exec .rti s = .next t ∧ t.pc = ret ∧ t.sp = s.sp + 3 ∧ t.p = restoredP p := by
  obtain ⟨u, hreturn⟩ := trapReturn_mapped (mapped_of_cell (cell_of_ramByte hp))
    (mapped_of_cell (cell_of_ramByte hlow)) (mapped_of_cell (cell_of_ramByte hhigh))
  obtain ⟨v, hi, lo, q, _, hv, hlo, hhi⟩ := trapReturn_did hreturn
  rw [hv _ hp, hlo (hleave _) _ hlow, hhi (hleave _) _ hhigh, wordOf_bytes] at q
  exact ⟨_, exec_system_completes rfl hreturn, q.pc_eq, q.sp_eq, q.p_eq⟩

/-! ### A return undoes its call -/

/-- The P that RTI restores from the byte BRK pushes (R28). -/
theorem restoredP_pushedBySoftware (p : Byte) :
    restoredP (pushedBySoftware p) = (p ||| 0x20) &&& 0xEF := by
  revert p
  decide

/-- Two instructions that write no register but SP and bring it back to its value change none. -/
theorem exec_exec_regsKept {i j : Instr} {s t u : State} (hi : exec i s = .next t)
    (hj : exec j t = .next u) (hwi : writtenRegs i.mnemonic = [.sp])
    (hwj : writtenRegs j.mnemonic = [.sp]) (hsp : u.sp = s.sp) : RegsKept [] s u := by
  obtain ⟨_, keptI⟩ := flagsAndRegistersChangeOnlyByTheirWriters i s t hi
  obtain ⟨_, keptJ⟩ := flagsAndRegistersChangeOnlyByTheirWriters j t u hj
  rw [hwi] at keptI
  rw [hwj] at keptJ
  intro r _
  by_cases hr : r = .sp
  · rw [hr]; exact hsp
  · exact (keptJ r (by simpa using hr)).trans (keptI r (by simpa using hr))

/-- Settles O47: each return pulls from above SP the bytes that its call left there. -/
theorem returnsUndoCalls : Obligations.ReturnsUndoCalls := by
  unfold Obligations.ReturnsUndoCalls
  refine ⟨fun s addr hwf hcells hleave hleave' => ?_, fun s hwf hstack hleave hvec hvec' => ?_⟩
  · obtain ⟨t, hjsr, hsp, hp, hlow, hhigh, hleaveT⟩ := exec_jsr_ram addr hwf hcells hleave hleave'
    rw [show s.sp - 1 = t.sp + 1 by bv_omega] at hlow
    rw [show s.sp = t.sp + 2 by bv_omega] at hhigh hleaveT
    obtain ⟨u, hrts, hpc, hspU, hpU⟩ := exec_rts_ram hlow hhigh hleaveT
    have hlevel : u.sp = s.sp := by bv_omega
    exact ⟨t, u, hjsr, hrts, hpc.trans (BitVec.sub_add_cancel _ _), hlevel,
      exec_exec_regsKept hjsr hrts rfl rfl hlevel, hpU.trans hp⟩
  · obtain ⟨t, hbrk, hsp, hp, hlow, hhigh, hleaveT⟩ := exec_brk_ram hwf hstack hleave hvec hvec'
    rw [show s.sp - 2 = t.sp + 1 by bv_omega] at hp
    rw [show s.sp - 1 = t.sp + 2 by bv_omega] at hlow
    rw [show s.sp = t.sp + 3 by bv_omega] at hhigh
    obtain ⟨u, hrti, hpc, hspU, hpU⟩ := exec_rti_ram hp hlow hhigh hleaveT
    have hlevel : u.sp = s.sp := by bv_omega
    exact ⟨t, u, hbrk, hrti, hpc, hlevel, hpU.trans (restoredP_pushedBySoftware s.p),
      exec_exec_regsKept hbrk hrti rfl rfl hlevel⟩

end Sys2Proof.Machine
end

section
/-! PROOFS. Stack, flag and system instructions (R205 to R216, R220, R221, R239): O41, O42 and O48
to O51. -/

namespace Sys2Proof.Machine

/-! ### Flag instructions -/

/-- The handler of a flag instruction sets the flag of its rule to its value (R209 to R215). -/
theorem impliedHandler_of_writtenFlag {mn : Mnemonic} {f : Flag} {b : Bool}
    (h : writtenFlag mn = some (f, b)) : impliedHandler mn = some (setFlag f b) := by
  cases mn <;> cases h <;> rfl

/-- Settles O41: the handler sets its flag alone and makes no transaction. -/
theorem flagInstructionsWriteOneFlag : Obligations.FlagInstructionsWriteOneFlag := by
  unfold Obligations.FlagInstructionsWriteOneFlag
  intro i s f b hflag
  obtain ⟨hexec, rest⟩ := exec_implied_completes (impliedHandler_of_writtenFlag hflag)
    (setFlag_handled f b s)
  exact ⟨_, hexec, flag_setFlag_same f b s, rest⟩

/-! ### NOP -/

/-- Settles O42: the handler of the addressed forms uses neither the address nor the cell there; the
resolution before it changes no parameter. -/
theorem nopsOnlyResolve : Obligations.NopsOnlyResolve := by
  unfold Obligations.NopsOnlyResolve
  intro i s hmn
  refine ⟨fun m ea s1 hmode hres => ?_, fun hmode => ?_⟩
  · obtain ⟨_, _, _, _, d⟩ := resolve_did hres
    rw [exec_address_completes (h := nothingAt) (by rw [hmn]; rfl) hmode hres rfl,
      ← d.baseCycles_eq]
    rfl
  · rw [exec_nop hmn hmode]
    rfl

/-! ### Instructions without operand that make transactions -/

/-- What every instruction without operand that makes transactions does, given its handler's: it
completes, changes no more than the tables list for it, and charges its base cost. -/
theorem exec_system_frame {i : Instr} {h : State → Out State} {s u : State} {ops : List BusOp}
    {l : List Word} (hm : systemHandler i.mnemonic = some h) (hh : h s = .next u)
    (d : Did ops l s u) (hcyc : u.cyc = s.cyc) :
    let t := chargeBase i.opcode u
    exec i s = .next t ∧ Frame (writtenRegs i.mnemonic) (writtenFlags i.mnemonic) l s t ∧
      t.cyc = s.cyc + baseCycles s.params i.opcode ∧ t.trace = ops ++ s.trace := by
  have hexec := exec_system_completes hm hh
  obtain ⟨hflags, hregs⟩ := flagsAndRegistersChangeOnlyByTheirWriters i s _ hexec
  refine ⟨hexec, (d.trans (Did.chargeBase u i.opcode)).frame hregs hflags, ?_, d.trace⟩
  rw [chargeBase_cyc, hcyc, d.baseCycles_eq]

/-! ### Pushes -/

/-- PHA and PHP push one byte, and their tables list SP alone (R205, R207). -/
theorem systemHandler_of_push {i : Instr} {s : State} {v : Byte}
    (h : (i = .pha ∧ v = s.a) ∨ (i = .php ∧ v = s.p ||| 0x30)) :
    (∃ f, systemHandler i.mnemonic = some f ∧ f s = push8 v s) ∧
      writtenRegs i.mnemonic = [.sp] ∧ writtenFlags i.mnemonic = [] := by
  rcases h with ⟨rfl, rfl⟩ | ⟨rfl, rfl⟩ <;> exact ⟨⟨_, rfl, rfl⟩, rfl, rfl⟩

/-- Settles O48: the push makes the write. -/
theorem pushInstructions : Obligations.PushInstructions := by
  unfold Obligations.PushInstructions
  intro i s v hi hmap
  obtain ⟨⟨f, hm, hf⟩, hregs, hflags⟩ := systemHandler_of_push hi
  obtain ⟨u, hpush⟩ := push8_mapped hmap v
  obtain ⟨q, d, hram⟩ := push8_did hpush
  obtain ⟨hexec, hframe, hcyc, htrace⟩ := exec_system_frame hm (hf.trans hpush) d q.cyc_eq
  rw [hregs, hflags] at hframe
  exact ⟨_, hexec, q.sp_eq, fun hwf hcell hleave => hram hwf hcell _ rfl hleave, hframe, q.pc_eq,
    hcyc, htrace⟩

/-! ### Pulls -/

/-- The bits of P in a state whose P is a restored one (R28). -/
theorem flags_of_restoredP {v : Byte} {t : State} (h : t.p = restoredP v) :
    (∀ f : Flag, f ≠ .u → f ≠ .b → flag f t = v.getLsbD f.index) ∧
      flag .u t = true ∧ flag .b t = false := by
  unfold flag
  rw [h]
  exact ⟨fun _ hu hb => restoredP_bit v hu hb, restoredP_u v, restoredP_b v⟩

/-- PLA after its pull (R206). -/
theorem pullA_eq {v : Byte} {s u : State} (h : pull8 s = .next (v, u)) :
    pullA s = .next (setNZ v (u.setA v)) := by
  rw [pullA, h, andThen_next]

/-- PLP after its pull (R208). -/
theorem pullStatus_eq {v : Byte} {s u : State} (h : pull8 s = .next (v, u)) :
    pullStatus s = .next (u.setP (restoredP v)) := by
  rw [pullStatus, h, andThen_next]

/-- Settles O49: the pull makes the read, whose byte goes to A or, restored, to P. -/
theorem pullInstructions : Obligations.PullInstructions := by
  unfold Obligations.PullInstructions
  intro s hmap
  obtain ⟨v, u, hread⟩ := memRead_mapped hmap
  obtain ⟨_, _, hram⟩ := memRead_did hread
  have hpull := pull8_eq hread
  obtain ⟨q, d, _⟩ := pull8_did hpull
  refine ⟨v, u, hread, hram, ?pla, ?plp⟩
  case pla =>
    have dload := (ldaWith_handled v (u.setSp (s.sp + 1))).did
    obtain ⟨hexec, ⟨hregs, hflags, rest⟩, hcyc, htrace⟩ :=
      exec_system_frame (i := .pla) rfl (pullA_eq hpull) (d.trans dload) q.cyc_eq
    exact ⟨_, hexec, rfl, setNZ_shows v _, rfl,
      ⟨hregs, fun f hf => hflags f fun hmem => hf ((List.Perm.swap _ _ _).subset hmem), rest⟩,
      q.pc_eq, hcyc, rfl, htrace⟩
  case plp =>
    obtain ⟨hexec, hframe, hcyc, htrace⟩ :=
      exec_system_frame (i := .plp) rfl (pullStatus_eq hpull) (d.trans (Did.setP _ _)) q.cyc_eq
    obtain ⟨hbits, hu, hb⟩ := flags_of_restoredP (v := v)
      (t := chargeBase 0x28 ((u.setSp (s.sp + 1)).setP (restoredP v))) rfl
    exact ⟨_, hexec, hbits, hu, hb, rfl, hframe, q.pc_eq, hcyc, rfl, htrace⟩

/-! ### BRK -/

/-- A word determines its bytes. -/
theorem bytes_eq_of_wordOf_eq {hi lo hi' lo' : Byte} (h : wordOf hi lo = wordOf hi' lo') :
    hi = hi' ∧ lo = lo' := by
  have hhigh := congrArg highByte h
  have hlow := congrArg lowByte h
  rw [highByte_wordOf, highByte_wordOf] at hhigh
  rw [lowByte_wordOf, lowByte_wordOf] at hlow
  exact ⟨hhigh, hlow⟩

/-- Where its addresses are mapped, the entry's writes complete and its reads answer two bytes,
which PC takes (R287). -/
theorem trapEntry_transacts {ret vec : Word} {p : Byte} {s : State}
    (h1 : Mapped s (stackAddr s s.sp)) (h2 : Mapped s (stackAddr s (s.sp - 1)))
    (h3 : Mapped s (stackAddr s (s.sp - 2))) (h4 : Mapped s vec) (h5 : Mapped s (vec + 1)) :
    ∃ lo hi u, transact [.wr (stackAddr s s.sp) (highByte ret),
        .wr (stackAddr s (s.sp - 1)) (lowByte ret), .wr (stackAddr s (s.sp - 2)) p,
        .rd vec, .rd (vec + 1)] s = .next ([lo, hi], u) ∧
      trapEntry ret p vec s =
        .next ((setFlag .i true (u.setSp (s.sp - 3))).setPc (wordOf hi lo)) := by
  obtain ⟨vs, u, h⟩ := transact_mapped (s := s) (ops := [.wr (stackAddr s s.sp) (highByte ret),
    .wr (stackAddr s (s.sp - 1)) (lowByte ret), .wr (stackAddr s (s.sp - 2)) p,
    .rd vec, .rd (vec + 1)]) (by
      simp only [List.forall_mem_cons, addrOf]
      exact ⟨h1, h2, h3, h4, h5, fun _ hnil => absurd hnil List.not_mem_nil⟩)
  obtain ⟨lo, hi, rfl⟩ := List.length_eq_two.mp (transact_length h)
  exact ⟨lo, hi, u, h, trapEntry_eq h⟩

/-- Settles O50: the entry makes the writes and the reads, and PC names the bytes they answered. -/
theorem brkEntersHandler : Obligations.BrkEntersHandler := by
  unfold Obligations.BrkEntersHandler
  intro s ret hret h1 h2 h3 hvec hvec'
  obtain rfl : ret = s.pc + 1 := by bv_omega
  obtain ⟨lo, hi, u, htransact, hentry⟩ :=
    trapEntry_transacts (ret := s.pc + 1) (p := pushedBySoftware s.p) h1 h2 h3 hvec hvec'
  obtain ⟨hi', lo', q, d, hlo, hhi, hram⟩ := trapEntry_did hentry
  obtain ⟨rfl, rfl⟩ := bytes_eq_of_wordOf_eq q.pc_eq
  have dlisted := d.mono_stored
    (l' := [stackAddr s s.sp, stackAddr s (s.sp - 1), stackAddr s (s.sp - 2)]) (by simp)
  obtain ⟨hexec, hframe, hcyc, htrace⟩ := exec_system_frame (i := .brk) rfl hentry dlisted q.cyc_eq
  exact ⟨lo, hi, u, _, htransact, hexec, wordOf_toNat hi lo, hlo, hhi, rfl,
    flag_setFlag_same .i true _, hram, hframe, hcyc, rfl, htrace⟩

/-! ### RTI -/

/-- Settles O51: the return makes the reads in order; P takes the first byte, restored, and PC the
other two. -/
theorem rtiReturns : Obligations.RtiReturns := by
  unfold Obligations.RtiReturns
  intro s h1 h2 h3
  obtain ⟨v, s1, hread1⟩ := memRead_mapped h1
  obtain ⟨_, d1, hv⟩ := memRead_did hread1
  obtain ⟨lo, s2, hread2⟩ := memRead_mapped (d1.mapped h2)
  obtain ⟨_, d2, hlo⟩ := memRead_did hread2
  have d12 := d1.trans d2
  obtain ⟨hi, u, hread3⟩ := memRead_mapped (d12.mapped h3)
  obtain ⟨_, _, hhi⟩ := memRead_did hread3
  have hreads : transact [.rd (stackAddr s (s.sp + 1)), .rd (stackAddr s (s.sp + 2)),
      .rd (stackAddr s (s.sp + 3))] s = .next ([v, lo, hi], u) :=
    transact_rd_cons.mpr ⟨s1, hread1, transact_rd_cons.mpr ⟨s2, hread2,
      transact_rd_cons.mpr ⟨u, hread3, rfl⟩⟩⟩
  have hreturn := trapReturn_eq hreads
  obtain ⟨_, _, _, q, d, _⟩ := trapReturn_did hreturn
  obtain ⟨hexec, hframe, hcyc, htrace⟩ := exec_system_frame (i := .rti) rfl hreturn d q.cyc_eq
  obtain ⟨hbits, hu, hb⟩ := flags_of_restoredP (v := v) (t := chargeBase 0x40
    (((u.setSp (s.sp + 3)).setP (restoredP v)).setPc (wordOf hi lo))) rfl
  exact ⟨v, lo, hi, u, _, hreads, hexec, wordOf_toNat hi lo, hv,
    fun hleave b hbyte => hlo b ((d1.ramByte_eq hleave).trans hbyte),
    fun hleave b hbyte => hhi b ((d12.ramByte_eq hleave).trans hbyte),
    hbits, hu, hb, rfl, hframe, hcyc, rfl, htrace⟩

end Sys2Proof.Machine
end

section
/-! PROOFS. Refused opcodes (R250 to R261), and what executes on a fully mapped bus (R271): O6, O7
and O8. -/

namespace Sys2Proof.Machine

/-! ### The instructions refused -/

/-- KIL, AXA, SXA, SYA and XAS stand at the bytes refused whatever the parameters (R257 to R261). -/
theorem neverAdmitted_alwaysRefused :
    ∀ op ∈ neverAdmittedOpcodes, alwaysRefused (instrOf op 0 0).mnemonic = true := by decide

/-- ASR, ARR, AXS, LAR, ATX and XAA stand at the bytes that ADMIT_UNNAMED_UNDOC admits (R251 to
R256). -/
theorem admissible_admittedHandler : ∀ op ∈ admissibleOpcodes,
    (admittedHandler (instrOf op 0 0).mnemonic).isSome = true := by decide

theorem admittedHandler_of_mem : ∀ mn ∈ [Mnemonic.asr, .arr, .axs, .lar, .atx, .xaa],
    (admittedHandler mn).isSome = true := by decide

theorem admittedHandler_source {i : Instr} {f : Byte → State → State}
    (hm : admittedHandler i.mnemonic = some f) : ∃ src, operandSource i.operand = some src := by
  cases i <;> first
    | (cases hm; done)
    | exact ⟨_, rfl⟩

/-- Without ADMIT_UNNAMED_UNDOC the instructions that it admits are refused (R250). -/
theorem exec_of_not_admitted {i : Instr} {s : State}
    (hm : (admittedHandler i.mnemonic).isSome = true)
    (hadmit : s.params.admitUnnamedUndoc = false) : exec i s = refuse i.opcode s := by
  obtain ⟨f, hf⟩ := Option.isSome_iff_exists.mp hm
  obtain ⟨src, hs⟩ := admittedHandler_source hf
  rw [exec_admitted hf hs, admittedOp, hadmit, if_neg Bool.false_ne_true]

/-- An instruction with a refused opcode is refused, by the parameters or whatever they are. -/
theorem exec_of_refusedOpcode {i : Instr} {s : State}
    (h : refusedOpcode s.params i.opcode = true) : exec i s = refuse i.opcode s := by
  obtain ⟨op, b1, b2, rfl⟩ := exists_instrOf i
  rw [instrOf_opcode, refusedOpcode, Bool.or_eq_true, Bool.and_eq_true, Bool.not_eq_true'] at h
  rcases h with hnever | ⟨hadmissible, hadmit⟩
  · refine exec_refused ?_ s
    rw [instrOf_mnemonic]
    exact neverAdmitted_alwaysRefused op (List.contains_iff_mem.mp hnever)
  · refine exec_of_not_admitted ?_ hadmit
    rw [instrOf_mnemonic]
    exact admissible_admittedHandler op (List.contains_iff_mem.mp hadmissible)

/-- Settles O7: the shape of each refused instruction is the refusal. -/
theorem unnamedInstructionsRefused : Obligations.UnnamedInstructionsRefused := by
  unfold Obligations.UnnamedInstructionsRefused
  have always : ∀ mn ∈ [Mnemonic.axa, .sxa, .sya, .xas, .kil], alwaysRefused mn = true := by decide
  exact fun i s => ⟨fun hmem => exec_refused (always _ hmem) s,
    fun hmem hadmit => exec_of_not_admitted (admittedHandler_of_mem _ hmem) hadmit⟩

/-! ### The step of a refused opcode -/

/-- Settles O6: the fetch of a refused opcode makes no transaction after the opcode's read, and what
it answers has that opcode. -/
theorem refusedOpcodeStopsBeforeOperands : Obligations.RefusedOpcodeStopsBeforeOperands := by
  unfold Obligations.RefusedOpcodeStopsBeforeOperands
  intro s s0 s1 op hs hb hboot hread hrefused
  have hafter : refusedOpcode (s1.setPc (s0.pc + 1)).params op = true := by
    rw [State.setPc_params, (memRead_did hread).1.env.params_eq]
    exact hrefused
  have hfetch : fetch s0 =
      .next (unreadInstr op (s1.setPc (s0.pc + 1)), s1.setPc (s0.pc + 1)) := by
    rw [fetch_eq_fetchOperand hread, fetchOperand, if_pos hafter]
  have hopcode : (unreadInstr op (s1.setPc (s0.pc + 1))).opcode = op := instrOf_opcode _ _ _
  rw [step_of_fetch hs hb hboot hfetch, exec_of_refusedOpcode (by rwa [hopcode]), hopcode]
  rfl

/-! ### What completes on a fully mapped bus -/

/-- The operation answers. -/
def Completes {α : Type} (o : Out α) : Prop := ∃ a, o = .next a

theorem Completes.next {α : Type} (a : α) : Completes (.next a) := ⟨a, rfl⟩

theorem FullyMapped.after {s t : State} (h : FullyMapped s) (env : EnvironmentKept s t) :
    FullyMapped t := fun addr => by
  unfold Mapped
  rw [mountAt_congr env.mounts_eq]
  exact h addr

section
variable {α β : Type} {s : State} (hmap : FullyMapped s)
include hmap

/-- Sequencing after an operation that answers a state. -/
theorem Completes.seq {o : Out State} {f : State → Out β} (h : Completes o)
    (ran : ∀ {t}, o = .next t → Ran s t) (k : ∀ {t}, FullyMapped t → Completes (f t)) :
    Completes (andThen o f) := by
  obtain ⟨t, rfl⟩ := h
  exact k (hmap.after (ran rfl).env)

/-- Sequencing after an operation that answers a value with a state. -/
theorem Completes.bind {o : Out (α × State)} {f : α × State → Out β} (h : ∃ v t, o = .next (v, t))
    (ran : ∀ {v t}, o = .next (v, t) → Ran s t)
    (k : ∀ v {t}, FullyMapped t → Completes (f (v, t))) : Completes (andThen o f) := by
  obtain ⟨v, t, rfl⟩ := h
  exact k v (hmap.after (ran rfl).env)

theorem modifyAt_mem_completes (ea : Word) (res : Byte → State → Byte)
    (f : Byte → Byte → State → State) : Completes (modifyAt (.mem ea) res f s) := by
  obtain ⟨v, s1, hread⟩ := memRead_mapped (hmap ea)
  obtain ⟨_, _, h⟩ := modifyAt_mem (result := res) (flags := f) hread
  exact ⟨_, h⟩

theorem addressHandler_completes {mn : Mnemonic} {h : Word → State → Out State}
    (hm : addressHandler mn = some h) (ea : Word) : Completes (h ea s) := by
  have branching : ∀ f b, Completes (branch f b ea s) := by
    intro f b
    unfold branch
    split <;> exact .next _
  cases mn <;> cases hm
  case jmp => exact .next _
  case jsr => exact .seq hmap (push16_mapped (hmap _) (hmap _) _) push16_ran fun _ => .next _
  case nop => exact .next _
  all_goals exact branching _ _

theorem systemHandler_completes {mn : Mnemonic} {h : State → Out State}
    (hm : systemHandler mn = some h) : Completes (h s) := by
  cases mn <;> cases hm
  case rts => exact .bind hmap (pull16_mapped (hmap _) (hmap _)) pull16_ran fun _ _ _ => .next _
  case pla => exact .bind hmap (pull8_mapped (hmap _)) pull8_ran fun _ _ _ => .next _
  case plp => exact .bind hmap (pull8_mapped (hmap _)) pull8_ran fun _ _ _ => .next _
  case brk => exact trapEntry_mapped (hmap _) (hmap _) (hmap _) (hmap _) (hmap _)
  case rti => exact trapReturn_mapped (hmap _) (hmap _) (hmap _)
  all_goals exact push8_mapped (hmap _) _

/-- Every instruction that is not refused, shape by shape, completes where its transactions do. -/
theorem exec_completes {i : Instr} (hexec : refusedOpcode s.params i.opcode = false) :
    Completes (exec i s) := by
  rcases exec_shape i with ⟨hd, src, hm, hs⟩ | ⟨hd, src, hm, hs⟩ | ⟨v, m, hm, hs⟩ |
    ⟨res, f, d, hm, hs⟩ | ⟨m1, m2, res, f, hd, m, hm, h1, h2, hs⟩ | ⟨m, hm, hs⟩ | ⟨hd, hm⟩ |
    ⟨hm, hs⟩ | ⟨hd, m, hm, hs⟩ | ⟨hd, hm⟩ | hm
  · rw [exec_reading hm hs]
    exact .bind hmap (readSource_mapped hmap src) readSource_ran fun _ _ _ => .next _
  · rw [exec_admitted hm hs, admittedOp, admitted_of_executes hm hexec, if_pos rfl]
    exact .bind hmap (readSource_mapped hmap src) readSource_ran fun _ _ _ => .next _
  · rw [exec_storing hm hs]
    exact .bind hmap (resolve_mapped hmap m) resolve_ran fun ea _ hmap1 =>
      .seq hmap1 (memWrite_mapped (hmap1 ea) _) memWrite_ran fun _ => .next _
  · rw [exec_modifying hm hs]
    cases d with
    | acc => exact .next _
    | mem m =>
      unfold modifyOp resolveDest
      simp only [andThen_assoc, andThen_next]
      exact .bind hmap (resolve_mapped hmap m) resolve_ran fun ea _ hmap1 =>
        .seq hmap1 (modifyAt_mem_completes hmap1 ea res f) (modifyAt_ran hm) fun _ => .next _
  · rw [exec_combining hm h1 h2 hs]
    exact .bind hmap (resolve_mapped hmap m) resolve_ran fun ea _ hmap1 =>
      .seq hmap1 (modifyAt_mem_completes hmap1 ea res f) (modifyAt_ran h1) fun hmap2 =>
        .bind hmap2 (memRead_mapped (hmap2 ea)) memRead_ran fun _ _ _ => .next _
  · rw [exec_lax hm hs]
    exact .bind hmap (resolve_mapped hmap m) resolve_ran fun ea _ hmap1 =>
      .bind hmap1 (memRead_mapped (hmap1 ea)) memRead_ran fun v s2 hmap2 =>
        have hmap3 := hmap2.after (ldaWith_handled v s2).did.env
        .bind hmap3 (memRead_mapped (hmap3 ea)) memRead_ran fun _ _ _ => .next _
  · rw [exec_implied hm]
    exact .next _
  · rw [exec_nop hm hs]
    exact .next _
  · rw [exec_address hm hs]
    exact .bind hmap (resolve_mapped hmap m) resolve_ran fun ea _ hmap1 =>
      .seq hmap1 (addressHandler_completes hmap1 hm ea) (addressHandler_ran hm) fun _ => .next _
  · rw [exec_system hm]
    exact .seq hmap (systemHandler_completes hmap hm) (systemHandler_ran hm) fun _ => .next _
  · cases hexec.symm.trans (refusedOpcode_of_alwaysRefused hm)

end

/-- Settles O8: the instruction completes; what it does before its base cost keeps the environment
and does not turn back time. -/
theorem everyExecutedInstructionCompletes : Obligations.EveryExecutedInstructionCompletes := by
  unfold Obligations.EveryExecutedInstructionCompletes
  intro i s hmap hexec
  obtain ⟨t, ht⟩ := exec_completes hmap hexec
  obtain ⟨u, ran, rfl⟩ := exec_ran ht
  refine ⟨_, ht, ran.env.trans (Did.chargeBase u i.opcode).env, ?_⟩
  rw [chargeBase_cyc, ran.env.params_eq]
  exact Nat.add_le_add_right ran.cyc _

end Sys2Proof.Machine
end

section
/-! PROOFS. No request is left pending at the end of a step (R281, R283): O13. -/

namespace Sys2Proof.Machine

/-- An instruction that answers charges its base cost after all else, and its opcode is not one of
the refused. -/
theorem exec_charges_last {i : Instr} {s t : State} (h : exec i s = .next t) :
    refusedOpcode s.params i.opcode = false ∧
      ∃ u, Ran s u ∧ t.nmi = u.nmi ∧ t.params = s.params ∧
        t.cyc = u.cyc + baseCycles s.params i.opcode := by
  refine ⟨Bool.eq_false_iff.mpr fun hrefused => ?_, ?_⟩
  · rw [exec_of_refusedOpcode hrefused] at h
    cases h
  · obtain ⟨u, ran, rfl⟩ := exec_ran h
    exact ⟨u, ran, rfl, ran.env.params_eq, by rw [chargeBase_cyc, ran.env.params_eq]⟩

/-- Up to its base cost an instruction stamps no request ahead of the time; where base costs are at
least 2, a request pending after it is therefore due (R281, R283). -/
theorem exec_nmiDue {i : Instr} {s t : State} (h : exec i s = .next t)
    (hcosts : BaseCostsAtLeastTwo s.params) (hstamp : StampNotAhead s)
    (hpending : t.nmi.pending = true) : nmiDue t = true := by
  obtain ⟨hexec, u, ran, hnmi, _, hcyc⟩ := exec_charges_last h
  have hcost : 2 ≤ baseCycles s.params i.opcode := hcosts _ hexec
  have hraised : u.nmi.raisedAt ≤ u.cyc := ran.stamp hstamp (hnmi ▸ hpending)
  unfold nmiDue
  rw [hpending, Bool.true_and, decide_eq_true_eq, hnmi, hcyc]
  omega

/-- The service leaves the latch Idle (R282). -/
theorem serviceNmi_idle {s t : State} (h : serviceNmi s = .next t) : t.nmi.pending = false := by
  obtain ⟨_, _, h1⟩ := andThen_eq_next.mp h
  obtain ⟨_, _, h2⟩ := andThen_eq_next.mp h1
  obtain ⟨_, _, ⟨⟩⟩ := andThen_eq_next.mp h2
  rfl

/-- Under the formula a check that finds every pending request due leaves none pending (R281). -/
theorem nmiCheck_formula_idle {s t : State} (h : nmiCheck s = .next t)
    (hformula : s.params.nmiLatency = .formula)
    (hdue : s.nmi.pending = true → nmiDue s = true) : t.nmi.pending = false := by
  simp only [nmiCheck, hformula] at h
  split at h
  · exact serviceNmi_idle h
  · next hnot =>
    cases h
    exact Bool.eq_false_iff.mpr fun hpending => hnot (hdue hpending)

theorem default_baseCostsAtLeastTwo : BaseCostsAtLeastTwo Params.default := by
  unfold BaseCostsAtLeastTwo
  decide

/-- Settles O13: the fetch and the instruction keep stamps behind the time, so that after the base
cost a pending request is due, and is serviced. -/
theorem latchIdleAfterEveryStep : Obligations.LatchIdleAfterEveryStep := by
  unfold Obligations.LatchIdleAfterEveryStep
  refine ⟨default_baseCostsAtLeastTwo, fun s s0 t hb hformula hcosts hstamp h => ?_⟩
  obtain ⟨_, s0', i, s1, s2, hb', _, hfetch, hexec, hcheck⟩ := step_parts h
  cases hb.symm.trans hb'
  obtain ⟨ran, _⟩ := fetch_ran hfetch
  obtain ⟨_, _, _, _, hparams, _⟩ := exec_charges_last hexec
  refine nmiCheck_formula_idle hcheck (by rw [hparams, ran.env.params_eq, hformula])
    (exec_nmiDue hexec ?_ (ran.stamp hstamp))
  rw [ran.env.params_eq]
  exact hcosts

end Sys2Proof.Machine
end

section
/-! PROOFS. Reset(), Boot() and the machines without a step (R272, R300 to R302): O9, O54, O55. -/

namespace Sys2Proof.Machine

/-- Settles O54, by the equation that the two cases of RESET_CLEARS_LATCH share. -/
theorem resetSetsRegisters : Obligations.ResetSetsRegisters := by
  unfold Obligations.ResetSetsRegisters
  exact resetCore_eq

/-! ### Machines without a step -/

theorem step_of_faulted {s : State} (h : s.status = .faulted) :
    step s = .fault .alreadyFaulted := by
  simp only [step, h]

theorem boot_of_faulted {s : State} (h : s.status = .faulted) :
    boot s = .fault .alreadyFaulted := by
  simp only [boot, h]

theorem step_of_not_booted {s s0 : State} (hs : s.status = .running) (hb : boundary s = .next s0)
    (hboot : s0.booted = false) : step s = .refused .notBooted := by
  simp only [step, hs, hb, andThen_next, hboot, Bool.false_eq_true, if_false]

/-- Settles O9: a step and a boot look at the status first, a step then at the boot record that the
host's calls leave. -/
theorem machinesWithoutAStep : Obligations.MachinesWithoutAStep := by
  unfold Obligations.MachinesWithoutAStep
  exact ⟨fun _ h => ⟨step_of_faulted h, boot_of_faulted h⟩, fun _ _ => step_of_not_booted⟩

/-! ### Boot() -/

/-- A Running machine's boot is a reset, the load of the reset vector, and the record (R301). -/
theorem boot_of_running {s : State} (h : s.status = .running) : boot s =
    andThen (loadVector resetVector (resetCore s)) fun t => .next (t.setPcLoaded true) := by
  simp only [boot, h]

theorem resetCore_mounts (s : State) : (resetCore s).mounts = s.mounts := by rw [resetCore_eq]

theorem resetCore_turns (s : State) : (resetCore s).turns = s.turns := by rw [resetCore_eq]

theorem resetCore_mem (s : State) : (resetCore s).mem = s.mem := by rw [resetCore_eq]

theorem resetCore_ramByte (s : State) (addr : Word) :
    ramByte (resetCore s) addr = ramByte s addr :=
  ramByte_congr (resetCore_mounts s) (resetCore_mem s) addr

theorem resetCore_chipsLeave (s : State) {addr : Word} (h : ChipsLeave s addr) :
    ChipsLeave (resetCore s) addr :=
  (chipsLeave_congr (resetCore_mounts s) (resetCore_turns s)).mpr h

theorem resetCore_mountAt (s : State) (addr : Word) : mountAt (resetCore s) addr = mountAt s addr :=
  mountAt_congr (resetCore_mounts s) addr

/-- Two reads of mapped addresses answer two bytes. -/
theorem transact_two_reads {a b : Word} {s : State} (ha : Mapped s a) (hb : Mapped s b) :
    ∃ v w t, transact [.rd a, .rd b] s = .next ([v, w], t) := by
  obtain ⟨v, s1, h1⟩ := memRead_mapped ha
  obtain ⟨w, t, h2⟩ := memRead_mapped ((memRead_did h1).2.1.mapped hb)
  exact ⟨v, w, t, transact_rd_cons.mpr ⟨s1, h1, transact_rd_cons.mpr ⟨t, h2, rfl⟩⟩⟩

/-- Settles O55: the load of the vector, faulting or not, starts from the state after the reset. -/
theorem bootLoadsResetVector : Obligations.BootLoadsResetVector := by
  unfold Obligations.BootLoadsResetVector
  intro s hs
  rw [boot_of_running hs]
  refine ⟨fun hnone => ?low, fun lo s1 hread hnone => ?high, fun hmap hmap' => ?mapped⟩
  case low =>
    have hfault : loadVector resetVector (resetCore s) = _ :=
      loadVector_fault (k := 0) (by decide) rfl ((resetCore_mountAt s _).trans hnone)
    rw [hfault, andThen_fault]
    rfl
  case high =>
    have hfault : loadVector resetVector (resetCore s) = _ :=
      loadVector_fault (k := 1) (by decide) (transact_rd_cons.mpr ⟨s1, hread, rfl⟩)
        ((resetCore_mountAt s _).trans hnone)
    rw [hfault, andThen_fault]
    rfl
  case mapped =>
    have mapped : ∀ {addr}, Mapped s addr → Mapped (resetCore s) addr := fun {addr} h => by
      unfold Mapped; rwa [resetCore_mountAt]
    obtain ⟨lo, hi, u, hreads⟩ := transact_two_reads (mapped hmap) (mapped hmap')
    have hload : loadVector resetVector (resetCore s) = _ := loadVector_eq hreads
    obtain ⟨hi', lo', q, d, hlo, hhi⟩ := loadVector_did hload
    obtain ⟨rfl, rfl⟩ := bytes_eq_of_wordOf_eq q.pc_eq
    have hstored : StoredOnlyAt [] s (u.setPc (wordOf hi lo)) := fun addr _ hleave =>
      (d.ramByte_eq (resetCore_chipsLeave s hleave)).trans (resetCore_ramByte s addr)
    refine ⟨lo, hi, u, _, hreads, by rw [hload, andThen_next], wordOf_toNat hi lo,
      fun b hb => hlo b ((resetCore_ramByte s _).trans hb),
      fun hleave b hb => hhi (resetCore_chipsLeave s hleave) b ((resetCore_ramByte s _).trans hb),
      ?_⟩
    rw [resetCore_eq] at q d
    obtain ⟨hstatus, hreset, _⟩ := q.env
    exact ⟨q.a_eq, q.x_eq, q.y_eq, q.sp_eq, q.p_eq, q.cyc_eq,
      Bool.and_eq_true_iff.mpr ⟨hreset, rfl⟩, hstatus.trans hs, hstored, rfl, d.trace⟩

end Sys2Proof.Machine
end

section
/-! PROOFS. The NMI check and its service (R281, R282, R284): O52 and O53. -/

namespace Sys2Proof.Machine

/-! ### The check -/

/-- The check under the formula (R281). -/
theorem nmiCheck_formula {s : State} (h : s.params.nmiLatency = .formula) :
    nmiCheck s = if nmiDue s then serviceNmi s else .next s := by
  simp only [nmiCheck, h]

theorem nmiDue_iff (s : State) :
    nmiDue s = true ↔ s.nmi.pending = true ∧ s.nmi.raisedAt + 1 < s.cyc := by
  rw [nmiDue, Bool.and_eq_true, decide_eq_true_eq]

/-- The check of a pending request under the abstraction, by whether one has examined it (R284). -/
theorem nmiCheck_pending {s : State} (h : s.params.nmiLatency = .firstOrSecondCheck)
    (hpending : s.nmi.pending = true) : nmiCheck s =
      if s.nmi.examined then serviceNmi s
      else if (chooseDefer s).1 then
        .next ((chooseDefer s).2.setNmi { (chooseDefer s).2.nmi with examined := true })
      else serviceNmi (chooseDefer s).2 := by
  simp only [nmiCheck, h, nmiCheckFirstOrSecond, hpending, if_true]

theorem chooseDefer_scripted {s : State} {d : Bool} {ds : List Bool} (h : s.defers = d :: ds) :
    chooseDefer s = (d, s.setDefers ds) := by
  simp only [chooseDefer, h]

/-- Settles O53: an examined request is serviced, the next scripted choice decides on another. -/
theorem nmiServicedByTheSecondCheck : Obligations.NmiServicedByTheSecondCheck := by
  unfold Obligations.NmiServicedByTheSecondCheck
  intro s hlatency hpending
  rw [nmiCheck_pending hlatency hpending]
  refine ⟨fun hexamined => if_pos hexamined, fun hexamined ds hds => ?_,
    fun hexamined ds hds => ?_⟩
  · rw [hexamined, chooseDefer_scripted hds]
    rfl
  · rw [hexamined, chooseDefer_scripted hds]
    rfl

/-! ### The service -/

/-- The two throwaway reads, and then the entry of the handler: what the service makes of them
(R282). -/
theorem serviceNmi_eq {d1 d2 : Byte} {s t u : State}
    (hreads : transact [.rd (nmiDummyAddr s), .rd (nmiDummyAddr s)] s = .next ([d1, d2], t))
    (hentry : trapEntry s.pc (pushedByNmi s.p) nmiVector t = .next u) :
    serviceNmi s = .next (endService u) := by
  obtain ⟨_, _, _, hnil, hservice⟩ := serviceNmi_after_reads rfl hreads
  obtain ⟨_, rfl⟩ := transact_nil_eq.mp hnil
  rw [hservice, hentry, andThen_next]

/-- Where its addresses are mapped, the service's transactions complete: the two throwaway reads,
which change no register, and those of the entry (R282). -/
theorem serviceNmi_transacts {s : State} (hmap : Mapped s (nmiDummyAddr s))
    (h1 : Mapped s (stackAddr s s.sp)) (h2 : Mapped s (stackAddr s (s.sp - 1)))
    (h3 : Mapped s (stackAddr s (s.sp - 2))) (h4 : Mapped s nmiVector)
    (h5 : Mapped s (nmiVector + 1)) :
    ∃ d1 d2 lo hi t u,
      transact [.rd (nmiDummyAddr s), .rd (nmiDummyAddr s)] s = .next ([d1, d2], t) ∧
      transact [.wr (stackAddr s s.sp) (highByte s.pc), .wr (stackAddr s (s.sp - 1)) (lowByte s.pc),
        .wr (stackAddr s (s.sp - 2)) (pushedByNmi s.p), .rd nmiVector, .rd (nmiVector + 1)] t =
          .next ([lo, hi], u) ∧
      trapEntry s.pc (pushedByNmi s.p) nmiVector t =
        .next ((setFlag .i true (u.setSp (s.sp - 3))).setPc (wordOf hi lo)) := by
  obtain ⟨d1, d2, t, hreads⟩ := transact_two_reads hmap hmap
  obtain ⟨q, d⟩ := transact_did hreads
  have mapped : ∀ {sp}, Mapped s (stackAddr s sp) → Mapped t (stackAddr t sp) := fun h => by
    rw [d.stackAddr_eq]
    exact d.mapped h
  obtain ⟨lo, hi, u, h⟩ := trapEntry_transacts (s := t) (ret := s.pc) (p := pushedByNmi s.p)
    (mapped (q.sp_eq ▸ h1)) (mapped (q.sp_eq ▸ h2)) (mapped (q.sp_eq ▸ h3)) (d.mapped h4)
    (d.mapped h5)
  simp only [q.sp_eq, d.stackAddr_eq] at h
  exact ⟨d1, d2, lo, hi, t, u, hreads, h⟩

/-- Taking an exception is within SP and P.I, and stores the three bytes it pushes (R287). -/
theorem trapEntry_within {ret vec : Word} {p : Byte} {s t : State}
    (h : trapEntry ret p vec s = .next t) : Within [.sp] [.i]
      [stackAddr s s.sp, stackAddr s (s.sp - 1), stackAddr s (s.sp - 2)] s t := by
  obtain ⟨_, _, q, d, _⟩ := trapEntry_did h
  exact ⟨regsKept_of (fun _ => q.a_eq) (fun _ => q.x_eq) (fun _ => q.y_eq) (by simp),
    fun f hf => (q.flag_eq f).trans ((setFlag_handled .i true _).flags f hf), _,
    d.mono_stored (by simp)⟩

/-- The last actions of the service touch the latch and `cyc` alone (R282). -/
theorem endService_regsKept (s : State) : RegsKept [] s (endService s) := fun r _ => by
  cases r <;> rfl

/-- Settles O52: after the two throwaway reads, which change no register, the service is the entry
of the handler, and then the latch and the charge. -/
theorem nmiServiceEntersHandler : Obligations.NmiServiceEntersHandler := by
  unfold Obligations.NmiServiceEntersHandler
  refine fun s dummy => ⟨fun hformula => ?check, fun hdummy hmap h1 h2 h3 hvec hvec' => ?service⟩
  case check =>
    rw [nmiCheck_formula hformula]
    exact ⟨fun hnot => if_neg (mt (nmiDue_iff s).mp hnot),
      fun hpending hraised => if_pos ((nmiDue_iff s).mpr ⟨hpending, hraised⟩)⟩
  case service =>
    subst hdummy
    obtain ⟨d1, d2, lo, hi, t, u, hreads, htransact, hentry⟩ :=
      serviceNmi_transacts hmap h1 h2 h3 hvec hvec'
    obtain ⟨qreads, dreads⟩ : Quiet s t ∧
      Did [.rd (nmiDummyAddr s), .rd (nmiDummyAddr s)] [] s t := transact_did hreads
    obtain ⟨hi', lo', q, d, hlo, hhi, hram⟩ := trapEntry_did hentry
    obtain ⟨rfl, rfl⟩ := bytes_eq_of_wordOf_eq q.pc_eq
    have hwithin := trapEntry_within hentry
    simp only [qreads.sp_eq, dreads.stackAddr_eq, dreads.cellOf_eq] at d hlo hhi hram hwithin
    obtain ⟨hregs, hflags, hstored, henv, _⟩ :=
      ((qreads.within (n := 0) dreads).trans hwithin).frame
    have before : ∀ {addr}, ChipsLeave s addr → ramByte t addr = ramByte s addr :=
      dreads.ramByte_eq
    have hcyc : u.cyc = s.cyc := q.cyc_eq.trans qreads.cyc_eq
    have hparams : u.params = s.params := henv.params_eq
    refine ⟨d1, d2, lo, hi, u, _, transact_append.mpr ⟨_, _, t, hreads, htransact, rfl⟩,
      serviceNmi_eq hreads hentry, wordOf_toNat hi lo,
      fun hne hleave b hb => hlo hne (dreads.chipsLeave hleave) b ((before hleave).trans hb),
      fun hne hleave b hb => hhi hne (dreads.chipsLeave hleave) b ((before hleave).trans hb),
      fun hwf hin hleave => hram (dreads.wf hwf) (dreads.stackInRam hin)
        fun sp => dreads.chipsLeave (hleave sp),
      rfl, flag_setFlag_same .i true _, rfl,
      fun r hr => (endService_regsKept _ r List.not_mem_nil).trans (hregs r hr), hflags, henv,
      hstored, ?_, rfl, (dreads.trans d).trace⟩
    show u.cyc + u.params.nmiServiceCycles = s.cyc + s.params.nmiServiceCycles
    rw [hcyc, hparams]

end Sys2Proof.Machine
end

section
/-! PROOFS. The undocumented instructions that access their cell more than once (R230 to R238): O57,
O58 and O59. -/

namespace Sys2Proof.Machine

/-! ### Handlers between two accesses -/

/-- A handler that computes with the registers and P alone, and changes nothing else. -/
def ActsOnRegs (g : State → State) : Prop := ∀ s t : State, g (t.withRegsOf s) = t.withRegsOf (g s)

theorem ldaWith_actsOnRegs (v : Byte) : ActsOnRegs (ldaWith v) := fun _ _ => rfl

theorem modifying_actsOnRegs {mn : Mnemonic} {res : Byte → State → Byte}
    {f : Byte → Byte → State → State} (hm : modifying mn = some (res, f)) (v w : Byte) :
    ActsOnRegs (f v w) := by
  cases mn <;> cases hm <;> exact fun _ _ => rfl

/-- A read that follows such a handler answers what it answers without it. -/
theorem memRead_actsOnRegs {g : State → State} (hg : ActsOnRegs g) {addr : Word} {s t : State}
    {v : Byte} (h : memRead addr s = .next (v, t)) : memRead addr (g s) = .next (v, g t) := by
  have kept : t.withRegsOf s = t := (memRead_did h).1.withRegsOf
  calc memRead addr (g s) = memRead addr (s.withRegsOf (g s)) := congrArg _ (hg s s)
    _ = .next (v, t.withRegsOf (g s)) := memRead_withRegsOf (g s) h
    _ = .next (v, g t) := by rw [← hg, kept]

/-! ### LAX -/

/-- Settles O57: the load of A lies between the two reads, which see no register. -/
theorem laxLoadsTwice : Obligations.LaxLoadsTwice := by
  unfold Obligations.LaxLoadsTwice
  intro i m s s1 ea hmn hmode hres hmap
  obtain ⟨_, _, _, qres, dres⟩ := resolve_did hres
  obtain ⟨v, s2, hread⟩ := memRead_mapped (dres.mapped hmap)
  obtain ⟨qread, dread, hv⟩ := memRead_did hread
  have dbefore := dres.trans dread
  obtain ⟨w, u, hagain⟩ := memRead_mapped (dbefore.mapped hmap)
  obtain ⟨qagain, dagain, hw⟩ := memRead_did hagain
  have hexec : exec i s = .next (chargeBase i.opcode (ldxWith w (ldaWith v u))) := by
    simp only [exec_lax hmn hmode, twoReadsOp, hres, hread, andThen_next,
      memRead_actsOnRegs (ldaWith_actsOnRegs v) hagain]
  have hreads : transact [.rd ea, .rd ea] s1 = .next ([v, w], u) :=
    transact_rd_cons.mpr ⟨s2, hread, transact_rd_cons.mpr ⟨u, hagain, rfl⟩⟩
  have hwithin : Within [.a, .x] [.n, .z] [] s (chargeBase i.opcode (ldxWith w (ldaWith v u))) :=
    ((((resolve_within hres).trans (memRead_within hread)).trans (memRead_within hagain)).trans
      (((ldaWith_handled v u).within.mono (by decide) (by decide)).trans
        ((ldxWith_handled w _).within.mono (by decide) (by decide)))).trans (within_chargeBase _ _)
  refine ⟨v, w, u, _, hreads, hexec, rfl, rfl, fun hleave b hb => ⟨?_, ?_⟩, setNZ_shows w _,
    hwithin.frame, qagain.pc_eq.trans (qread.pc_eq.trans qres.pc_eq), ?_, rfl,
    (dread.trans dagain).trace⟩
  · exact hv b ((dres.ramByte_eq hleave).trans hb)
  · exact hw b ((dbefore.ramByte_eq hleave).trans hb)
  · show u.cyc + baseCycles u.params i.opcode = _
    rw [qagain.cyc_eq, qread.cyc_eq, (dbefore.trans dagain).baseCycles_eq]

/-! ### A read-modify-write and a reading handler -/

/-- The flags of a read-modify-write instruction lie in P. -/
theorem modifying_eq_setP {mn : Mnemonic} {res : Byte → State → Byte}
    {f : Byte → Byte → State → State} (hm : modifying mn = some (res, f)) (v r : Byte) (s : State) :
    ∃ p, f v r s = s.setP p := by
  cases mn <;> cases hm <;> exact ⟨_, rfl⟩

/-- The reading half of a combined instruction writes A and P at most. -/
theorem combining_eq_setA_setP {mn m1 m2 : Mnemonic} {h : Byte → State → State}
    (hm : combining mn = some (m1, m2)) (h2 : readingHandler m2 = some h) (w : Byte) (s : State) :
    ∃ a p, h w s = (s.setA a).setP p := by
  cases mn <;> cases hm <;> cases h2
  case dcp => exact ⟨s.a, _, rfl⟩
  all_goals exact ⟨_, _, rfl⟩

/-- Resolving and reading an operand leave the flags. -/
theorem operandRead_flag {m : AddrMode} {s s1 s2 : State} {ea : Word} {v : Byte}
    (hres : resolve m s = .next (ea, s1)) (hread : memRead ea s1 = .next (v, s2)) (f : Flag) :
    flag f s2 = flag f s := by
  obtain ⟨_, _, _, qres, _⟩ := resolve_did hres
  exact ((memRead_did hread).1.flag_eq f).trans (qres.flag_eq f)

/-- What every combined instruction does whose first read answers: a write of the result, a second
read, and then the flags and the handler, from the state `u` that the read leaves (R230). -/
theorem exec_combining_completes {i : Instr} {m1 m2 : Mnemonic} {res : Byte → State → Byte}
    {f : Byte → Byte → State → State} {h : Byte → State → State} {m : AddrMode}
    {s s1 s2 : State} {ea : Word} {v r : Byte} {rs : List Reg} {fs : List Flag}
    (hm : combining i.mnemonic = some (m1, m2)) (h1 : modifying m1 = some (res, f))
    (h2 : readingHandler m2 = some h) (hmode : operandMode i.operand = some m)
    (hres : resolve m s = .next (ea, s1)) (hread : memRead ea s1 = .next (v, s2))
    (hr : res v s2 = r) (hh : ∀ w u, Handled rs fs u (h w (f v r u))) :
    ∃ w u, (u.a = s.a ∧ flag .c u = flag .c s) ∧
      let t := chargeBase i.opcode (h w (f v r u))
      transact [.wr ea r, .rd ea] s2 = .next ([w], u) ∧ exec i s = .next t ∧
      (s.mem.wf = true → (cellOf s ea).isSome = true → ChipsLeave s ea →
        w = r ∧ ramByte t ea = some r) ∧
      Frame rs fs [ea] s t ∧ t.pc = s.pc ∧ t.cyc = s1.cyc + baseCycles s.params i.opcode ∧
      t = { u with a := t.a, p := t.p, cyc := t.cyc } ∧
      t.trace = .rd ea :: .wr ea r :: .rd ea :: s1.trace := by
  subst hr
  obtain ⟨_, _, _, qres, dres⟩ := resolve_did hres
  obtain ⟨qread, dread, _⟩ := memRead_did hread
  obtain ⟨s3, hwrite, hmodify⟩ := modifyAt_mem (result := res) (flags := f) hread
  obtain ⟨qwrite, dwrite, hram⟩ := memWrite_did hwrite
  have dbefore := dres.trans dread
  have dstored := dbefore.trans dwrite
  obtain ⟨w, u, hagain⟩ := memRead_mapped (dwrite.mapped (dread.mapped (memRead_next hread).1))
  obtain ⟨qagain, dagain, hw⟩ := memRead_did hagain
  have q : Quiet s1 u := qread.trans (qwrite.trans qagain)
  have handled := hh w u
  have dlast := handled.did.trans (Did.chargeBase (h w (f v (res v s2) u)) i.opcode)
  have hexec : exec i s = .next (chargeBase i.opcode (h w (f v (res v s2) u))) := by
    simp only [exec_combining hm h1 h2 hmode, combinedOp, hres, hmodify, andThen_next,
      memRead_actsOnRegs (modifying_actsOnRegs h1 v (res v s2)) hagain]
  have hbus : Within rs fs [ea] s u :=
    (((resolve_within hres).trans (memRead_within hread)).trans (memWrite_within hwrite)).trans
      (memRead_within hagain)
  refine ⟨w, u, ⟨q.a_eq.trans qres.a_eq, (q.flag_eq .c).trans (qres.flag_eq .c)⟩,
    transact_wr_eq.mpr ⟨s3, hwrite, transact_rd_cons.mpr ⟨u, hagain, rfl⟩⟩, hexec,
    fun hwf hcell hleave => ?_, ((hbus.trans handled.within).trans (within_chargeBase _ _)).frame,
    handled.pc.trans (q.pc_eq.trans qres.pc_eq), ?_, ?_, ?_⟩
  · have hbyte : ramByte s3 ea = some (res v s2) :=
      hram (dbefore.wf hwf) (by rwa [dbefore.cellOf_eq]) ea rfl (dbefore.chipsLeave hleave)
    have hleave3 := dstored.chipsLeave hleave
    exact ⟨hw _ hbyte, ((dagain.trans dlast).ramByte_eq hleave3).trans hbyte⟩
  · rw [chargeBase_cyc, handled.cyc, q.cyc_eq,
      ((dstored.trans dagain).trans handled.did).baseCycles_eq]
  · obtain ⟨_, hf⟩ := modifying_eq_setP h1 v (res v s2) u
    obtain ⟨_, _, hset⟩ := combining_eq_setA_setP hm h2 w (f v (res v s2) u)
    rw [hset, hf]
    rfl
  · rw [dlast.trace, dagain.trace, dwrite.trace, dread.trace]
    rfl

/-- Two handlers that stay within the same registers and flags. -/
theorem Handled.trans {rs : List Reg} {fs : List Flag} {s t u : State} (h : Handled rs fs s t)
    (k : Handled rs fs t u) : Handled rs fs s u :=
  ⟨fun r hr => (k.regs r hr).trans (h.regs r hr), fun f hf => (k.flags f hf).trans (h.flags f hf),
    h.did.trans k.did, k.pc.trans h.pc, k.cyc.trans h.cyc⟩

/-! ### SLO, RLA and SRE -/

/-- SLO, RLA and SRE are a shift and a logic instruction, which loads A with its result (R233 to
R235). -/
theorem combining_of_logic {mn sh lg : Mnemonic}
    (hmem : (mn, sh, lg) ∈
      [(Mnemonic.slo, Mnemonic.asl, Mnemonic.ora), (.rla, .rol, .and), (.sre, .lsr, .eor)]) :
    combining mn = some (sh, lg) ∧ ∃ h, readingHandler lg = some h ∧
      ∀ w u, ∃ x, logicResult lg u.a w = some x ∧ h w u = ldaWith x u := by
  simp only [List.mem_cons, Prod.mk.injEq, List.not_mem_nil, or_false] at hmem
  rcases hmem with ⟨rfl, rfl, rfl⟩ | ⟨rfl, rfl, rfl⟩ | ⟨rfl, rfl, rfl⟩ <;>
    exact ⟨rfl, _, rfl, fun _ _ => ⟨_, rfl, rfl⟩⟩

/-- The flags of a shift and then a load of A. -/
theorem shiftThenLoad_handled (c : Bool) (r x : Byte) (u : State) :
    Handled [.a] [.c, .n, .z] u (ldaWith x (setNZ r (setFlag .c c u))) :=
  ((shiftFlags_handled c r u).weaken (by decide) (by decide)).trans
    ((ldaWith_handled x _).weaken (by decide) (by decide))

/-- Settles O58: the logic instruction loads A, which the shift leaves alone, and leaves the C of
the shift. -/
theorem shiftAndLogicCombine : Obligations.ShiftAndLogicCombine := by
  unfold Obligations.ShiftAndLogicCombine
  intro i sh lg m s s1 s2 ea v r c hmem hmode hres hread hr hc
  obtain ⟨hm, h, h2, hlogic⟩ := combining_of_logic hmem
  obtain ⟨res, f, h1, hresult, hf⟩ := modifying_of_shift hr hc
  have hbyte : res v s2 = BitVec.ofNat 8 r := by
    rw [← hresult s2 (operandRead_flag hres hread .c), BitVec.ofNat_toNat, BitVec.setWidth_eq]
  obtain ⟨w, u, ⟨ha, _⟩, htransact, hexec, hram, hframe, rest⟩ :=
    exec_combining_completes (rs := [.a]) (fs := [.c, .n, .z]) hm h1 h2 hmode hres hread hbyte
      fun w u => by
        obtain ⟨x, _, hload⟩ := hlogic w (f v (BitVec.ofNat 8 r) u)
        rw [hload, hf]
        exact shiftThenLoad_handled c _ x u
  obtain ⟨x, hx, hload⟩ := hlogic w (f v (BitVec.ofNat 8 r) u)
  rw [hf] at hx hload
  rw [setNZ_a, setFlag_a, ha] at hx
  rw [hf, hload] at hexec hram hframe rest
  refine ⟨w, u, _, htransact, hexec, hx, hram, ?_, setNZ_shows x _, hframe, rest⟩
  exact ((ldaWith_handled x _).flags .c (by decide)).trans (shiftFlags_show c _ u).1

/-! ### RRA, DCP and ISB -/

/-- The C of ROR, as the carry that RRA's addition takes (R236). -/
theorem rorFlags_carry (v r : Byte) (u : State) :
    (flag .c (rorFlags v r u)).toNat = v.toNat % 2 := by
  have hc : flag .c (rorFlags v r u) = decide (v.toNat % 2 = 1) := by
    rw [← bit0_toNat]
    exact (shiftFlags_show _ r u).1
  rw [hc]
  rcases Nat.mod_two_eq_zero_or_one v.toNat with h | h <;> rw [h] <;> rfl

/-- Settles O59: the arithmetic takes the A that its first half leaves alone, and the carry of ROR
in RRA, the old one in ISB. -/
theorem modifyAndArithmeticCombine : Obligations.ModifyAndArithmeticCombine := by
  unfold Obligations.ModifyAndArithmeticCombine
  intro i m s s1 s2 ea v r hmode hres hread hi
  rcases hi with ⟨hmn, hr⟩ | ⟨hmn, hr⟩ | ⟨hmn, hr⟩
  · have hbyte : rorResult v s2 = r := BitVec.eq_of_toNat_eq (by
      rw [hr, rorResult, carryByte_eq (operandRead_flag hres hread .c), rotateRight_toNat])
    obtain ⟨w, u, ⟨ha, _⟩, htransact, hexec, hram, hframe, rest⟩ :=
      exec_combining_completes (rs := [.a]) (fs := [.c, .v, .n, .z]) (by rw [hmn]; rfl) rfl rfl
        hmode hres hread hbyte fun w u =>
          ((shiftFlags_handled _ r u).weaken (by decide) (by decide)).trans (adcWith_handled w _)
    have hsum : ShowsSum u.a w (v.toNat % 2) (adcWith w (rorFlags v r u)) :=
      rorFlags_carry v r u ▸ adcWith_shows w (rorFlags v r u)
    rw [hmn]
    exact ⟨w, u, _, htransact, hexec, hram, fun _ => ⟨ha ▸ hsum, hframe⟩, nofun, nofun, rest⟩
  · have hbyte : decResult v s2 = r := BitVec.eq_of_toNat_eq ((bytePred_toNat v).trans hr.symm)
    obtain ⟨w, u, ⟨ha, _⟩, htransact, hexec, hram, hframe, rest⟩ :=
      exec_combining_completes (rs := []) (fs := [.c, .n, .z]) (by rw [hmn]; rfl) rfl rfl
        hmode hres hread hbyte fun w u =>
          ((setNZ_handled r u).weaken (by decide) (by decide)).trans (compareWith_handled _ w _)
    have hcompare : ShowsCompare u.a w (cmpWith w (resultFlags v r u)) := compareWith_shows u.a w _
    rw [hmn]
    exact ⟨w, u, _, htransact, hexec, hram, nofun, fun _ => ⟨ha ▸ hcompare, hframe⟩, nofun, rest⟩
  · have hbyte : incResult v s2 = r := BitVec.eq_of_toNat_eq ((byteSucc_toNat v).trans hr.symm)
    obtain ⟨w, u, ⟨ha, hc⟩, htransact, hexec, hram, hframe, rest⟩ :=
      exec_combining_completes (rs := [.a]) (fs := [.c, .v, .n, .z]) (by rw [hmn]; rfl) rfl rfl
        hmode hres hread hbyte fun w u =>
          ((setNZ_handled r u).weaken (by decide) (by decide)).trans (sbcWith_handled w _)
    have hkept : flag .c (resultFlags v r u) = flag .c u := (setNZ_handled r u).flags .c (by decide)
    have hdifference : ShowsDifference u.a w (flag .c s).toNat (sbcWith w (resultFlags v r u)) :=
      hkept.trans hc ▸ sbcWith_shows w (resultFlags v r u)
    rw [hmn]
    exact ⟨w, u, _, htransact, hexec, hram, nofun, nofun, fun _ => ⟨ha ▸ hdifference, hframe⟩, rest⟩

end Sys2Proof.Machine
end

section
/-! PROOFS. The unnamed instructions that ADMIT_UNNAMED_UNDOC admits (R250 to R256): O60. -/

namespace Sys2Proof.Machine

/-! ### Their handlers -/

/-- ASR (R251). -/
theorem asrWith_shows (m : Byte) (s : State) :
    (asrWith m s).a.toNat = (s.a &&& m).toNat / 2 ∧ ShowsNZ (asrWith m s).a (asrWith m s) ∧
      flag .c (asrWith m s) = decide ((s.a &&& m).toNat % 2 = 1) := by
  refine ⟨shiftRight_toNat _, setNZ_shows _ _, ?_⟩
  rw [← bit0_toNat]
  exact (shiftFlags_show _ _ _).1

/-- ARR (R252): C and V are bits of the result. -/
theorem arrWith_shows (m : Byte) (s : State) :
    (arrWith m s).a.toNat = (s.a &&& m).toNat / 2 + (flag .c s).toNat * 128 ∧
      ShowsNZ (arrWith m s).a (arrWith m s) ∧
      flag .c (arrWith m s) = (arrWith m s).a.getLsbD 6 ∧
      flag .v (arrWith m s) = ((arrWith m s).a.getLsbD 6 != (arrWith m s).a.getLsbD 5) := by
  have ha : (arrWith m s).a = rorResult (s.a &&& m) s := rfl
  refine ⟨?_, showsNZ_of ?_ ?_, ?_, ?_⟩
  · rw [ha, rorResult, carryByte_eq rfl, rotateRight_toNat]
  · simp [arrWith, flag_setFlag]
  · simp [arrWith, flag_setFlag]
  · simp [arrWith, flag_setFlag]
  · simp [arrWith]

/-- AXS (R253) compares A &&& X with its operand and loads X with the difference. -/
theorem axsWith_shows (m : Byte) (s : State) :
    (axsWith m s).x = (s.a &&& s.x) - m ∧ ShowsCompare (s.a &&& s.x) m (axsWith m s) :=
  ⟨rfl, compareWith_shows (s.a &&& s.x) m s⟩

/-- LAR (R254). -/
theorem larWith_shows (m : Byte) (s : State) :
    (larWith m s).a = m &&& s.sp ∧ (larWith m s).x = m &&& s.sp ∧ (larWith m s).sp = m &&& s.sp ∧
      ShowsNZ (larWith m s).a (larWith m s) :=
  ⟨rfl, rfl, rfl, setNZ_shows _ _⟩

/-- ATX (R255), MAGIC being the free value drawn. -/
theorem atxWith_shows (m : Byte) (s : State) :
    (atxWith m s).a = (s.a ||| Config.magic s.draws) &&& m ∧ (atxWith m s).x = (atxWith m s).a ∧
      ShowsNZ (atxWith m s).a (atxWith m s) :=
  ⟨rfl, rfl, setNZ_shows _ _⟩

/-- XAA (R256), MAGIC being the free value drawn. -/
theorem xaaWith_shows (m : Byte) (s : State) :
    (xaaWith m s).a = (s.a ||| Config.magic s.draws) &&& s.x &&& m ∧
      ShowsNZ (xaaWith m s).a (xaaWith m s) :=
  ⟨rfl, setNZ_shows _ _⟩

/-! ### The instructions -/

/-- What every admitted instruction does where the parameter admits it: after its operand's read it
makes no transaction and charges its base cost, within the frame of its handler (R250). -/
theorem exec_admitted_completes {i : Instr} {h : Byte → State → State} {src : Source}
    {s s1 : State} {m : Byte} (hadmit : s.params.admitUnnamedUndoc = true)
    (hm : admittedHandler i.mnemonic = some h) (hs : operandSource i.operand = some src)
    (hr : readSource src s = .next (m, s1)) :
    let t := chargeBase i.opcode (h m s1)
    exec i s = .next t ∧ t.pc = s.pc ∧ t.cyc = s1.cyc + baseCycles s.params i.opcode ∧
      t.trace = s1.trace ∧
      ∀ {rs fs}, Handled rs fs s1 (h m s1) → Frame rs fs [] s t := by
  obtain ⟨_, _, _, q, d⟩ := readSource_did hr
  have handled := admittedHandler_handled hm m s1
  refine ⟨?_, handled.pc.trans q.pc_eq, ?_, handled.did.trace, fun hh =>
    (((readSource_within hr).trans hh.within).trans (within_chargeBase _ _)).frame⟩
  · rw [exec_admitted hm hs, admittedOp, if_pos hadmit]
    exact readOp_eq hr
  · rw [chargeBase_cyc, handled.cyc, (d.trans handled.did).baseCycles_eq]

/-- Settles O60: each handler computes with the registers and the C that the operand's read leaves
alone. -/
theorem admittedUnnamedInstructions : Obligations.AdmittedUnnamedInstructions := by
  unfold Obligations.AdmittedUnnamedInstructions
  intro i src s s1 m hadmit hs hr hmem
  obtain ⟨h, hm⟩ := Option.isSome_iff_exists.mp (admittedHandler_of_mem _ hmem)
  obtain ⟨hexec, hpc, hcyc, htrace, hframe⟩ := exec_admitted_completes hadmit hm hs hr
  have kept : Within [] [] [] s s1 := readSource_within hr
  have ha : s1.a = s.a := kept.regs .a List.not_mem_nil
  have hx : s1.x = s.x := kept.regs .x List.not_mem_nil
  have hsp : s1.sp = s.sp := kept.regs .sp List.not_mem_nil
  rw [← ha, ← hx, ← hsp, ← kept.flags .c List.not_mem_nil]
  refine ⟨Config.magic s1.draws, _, hexec, hpc, hcyc, htrace, fun hmn => ?asr, fun hmn => ?arr,
    fun hmn => ?axs, fun hmn => ?lar, fun hmn => ?atx, fun hmn => ?xaa⟩ <;> rw [hmn] at hm <;>
    cases hm
  case asr =>
    obtain ⟨hval, hnz, hc⟩ := asrWith_shows m s1
    exact ⟨hval, hnz, hc, hframe (asrWith_handled m s1)⟩
  case arr =>
    obtain ⟨hval, hnz, hc, hv⟩ := arrWith_shows m s1
    exact ⟨hval, hnz, hc, hv, hframe (arrWith_handled m s1)⟩
  case axs =>
    obtain ⟨hval, hcompare⟩ := axsWith_shows m s1
    exact ⟨hval, hcompare, hframe (axsWith_handled m s1)⟩
  case lar =>
    obtain ⟨hval, hvalx, hvalsp, hnz⟩ := larWith_shows m s1
    exact ⟨hval, hvalx, hvalsp, hnz, hframe (larWith_handled m s1)⟩
  case atx =>
    obtain ⟨hval, hvalx, hnz⟩ := atxWith_shows m s1
    exact ⟨hval, hvalx, hnz, hframe (atxWith_handled m s1)⟩
  case xaa =>
    obtain ⟨hval, hnz⟩ := xaaWith_shows m s1
    exact ⟨hval, hnz, hframe (xaaWith_handled m s1)⟩

end Sys2Proof.Machine
end
